-- ==== Sys2Proof/Word.lean ====
section
/-! DEFINITION. The two sizes of value the spec uses (00_scope.md R9, R10): all values are unsigned. -/

namespace Sys2Proof

/-- BYTE, 8 bits (00_scope.md R9). -/
abbrev Byte := BitVec 8

/-- WORD, 16 bits: Address, count, value, register value, CRC (00_scope.md R9). -/
abbrev Word := BitVec 16

end Sys2Proof
end

