-- ==== Sys2Proof/Syntax.lean ====
section
/-! DEFINITION. The instructions of the MBRTU engine: one constructor per row of spec/opcode_table.json, the
17 commands of 30_encoding.md R81 and the 10 wire formats of R87 and R88, and the forms in which they are encoded. -/

namespace Sys2Proof

/-- OP, the multi-step command that runs (10_state.md R36). -/
inductive Op where
  | xfer
  | txnRB
  | txnRR
  | txnWB
  | txnWR
  deriving DecidableEq, Repr, Inhabited

/-- One constructor per row of the opcode table. A command has no operand field (30_encoding.md R80). The operands of
a wire format are the variable fields of its row: `sl` the slave address, `a` the Address, `n` the coil count, `v` the
register value, `w` the register word, `e` the echoed value, `d` the data bytes, `f` the function code bits 6:0, `x` the
exception code, `c` the 16-bit CRC carried by the frame (sent low byte first). -/
inductive Instr where
  | crcInit
  | crcFeed
  | chkCrc
  | chkExc
  | encRB
  | encRR
  | encWB
  | encWR
  | decRB
  | decRR
  | decWB
  | decWR
  | xfer
  | txnRB
  | txnRR
  | txnWB
  | txnWR
  | reqReadBits (sl : Byte) (a n c : Word)
  | reqReadRegister (sl : Byte) (a c : Word)
  | reqWriteBitOn (sl : Byte) (a c : Word)
  | reqWriteBitOff (sl : Byte) (a c : Word)
  | reqWriteRegister (sl : Byte) (a v c : Word)
  | rspReadBits (sl : Byte) (d : List Byte) (c : Word)
  | rspReadRegister (sl : Byte) (w c : Word)
  | rspWriteBitEcho (sl : Byte) (a e c : Word)
  | rspWriteRegisterEcho (sl : Byte) (a e c : Word)
  | rspException (sl : Byte) (f : BitVec 7) (x : Byte) (c : Word)
  deriving DecidableEq, Repr

/-- The form in which an instruction reaches the block. A command is the value of one CMD write (30_encoding.md R80).
A request is the byte sequence the engine hands to CHANNEL, a response the byte sequence CHANNEL delivers: the
direction is part of the form, since a write request and its echo are the same bytes (R87, R88; log 12). -/
inductive Form where
  | command (c : Word)
  | request (bs : List Byte)
  | response (bs : List Byte)
  deriving DecidableEq, Repr

/-- Why a form is no instruction. -/
inductive DecodeReject where
  /-- a CMD value that is not one of the 17 codes (30_encoding.md R84, R85) -/
  | illegalCommand
  /-- a request that is not 8 bytes, or a response whose length does not fit its function code (R87, R88) -/
  | wrongLength
  /-- a function code that is none of 0x01, 0x03, 0x05, 0x06, nor (in a response) one with bit 7 set (R90, R91) -/
  | unknownFunction
  /-- a fixed field (the count of a read-register request, the value of a write-bit request, the byte count of a
  read-register response) that is not as R87 or R88 gives it -/
  | wrongFixedField
  deriving DecidableEq, Repr

/-- What the decoder answers. -/
inductive Decoded where
  | instr (i : Instr)
  | reject (r : DecodeReject)
  deriving DecidableEq, Repr

end Sys2Proof
end

