-- ==== Sys2Proof/Config.lean ====
section
/-! DEFINITION. The parameters of the block (00_scope.md R9) and the values the spec leaves open. A constant without a
body is a value nothing in Lean can evaluate. -/

namespace Sys2Proof.Config

/-- COUNT_MIN, the least coil count of a read-bits request. -/
abbrev countMin : Nat := 1

/-- COUNT_MAX, the greatest coil count of a read-bits request. -/
abbrev countMax : Nat := 2000

/-- REQ_LEN and TXBUF_SIZE, the bytes of every request. -/
abbrev reqLen : Nat := 8

/-- RSP_MAX, the longest response (42_decoder.md R147). -/
abbrev rspMax : Nat := 255

/-- RXBUF_SIZE. -/
abbrev rxbufSize : Nat := 256

/-- COIL_MAX. -/
abbrev coilMax : Nat := 2000

/-- MAX_ATTEMPTS, the transmissions of one exchange. -/
abbrev maxAttempts : Nat := 2

/-- READ_TIMEOUT, an OPEN parameter of CHANNEL: no rule uses its value (92_eei_decisions.md D45; log 15). -/
opaque readTimeout : Nat

/-- WRITE_TIMEOUT, an OPEN parameter of CHANNEL: no rule uses its value (D46; log 15). -/
opaque writeTimeout : Nat

/-- MBRTU_BASE, where HOST's address space holds the register space: OPEN, no rule uses it (D47; log 15). -/
opaque mbrtuBase : Nat

/-- RXBUF[i] after reset number `era`, before a write: "any value" (93_implementation_defined.md U1; log 6). -/
opaque freeRxByte (era i : Nat) : Byte

/-- TXBUF[i] after reset number `era`, before an encode: "any value" (U1; log 6). -/
opaque freeTxByte (era i : Nat) : Byte

/-- OP after reset number `era`: "any value", not read while PHASE = IDLE (U2; log 7). -/
opaque freeOp (era : Nat) : Op

/-- EXPLEN after reset number `era`: "any value", not read while PHASE = IDLE (U2; log 7). -/
opaque freeExplen (era : Nat) : Nat

/-- The expected length for a function code 43_arbiter.md R173 does not list; no run reaches it (log 8). -/
opaque unstatedExplen (fc : Byte) : Nat

end Sys2Proof.Config
end

