-- ==== Sys2Proof/Machine/Crc.lean ====
section
/-! DEFINITION. The CRC-16/0xA001 function (40_crc.md R100, R101). -/

namespace Sys2Proof.Machine

/-- One turn of the loop of `crc_step` (R101): shift right, and XOR 0xA001 when the bit shifted out is 1. -/
def crcBit (c : Word) : Word :=
  if c.getLsbD 0 then (c >>> 1) ^^^ 0xA001#16 else c >>> 1

/-- `crcBit` n times. -/
def crcBits : Nat → Word → Word
  | 0, c => c
  | n + 1, c => crcBits n (crcBit c)

/-- `crc_step(c, b)` (R101): fold one byte into the CRC, its least-significant bit first. -/
def crcStep (c : Word) (b : Byte) : Word :=
  crcBits 8 (c ^^^ b.setWidth 16)

/-- The initial value 0xFFFF (R100). -/
def crcInitial : Word := 0xFFFF#16

/-- `crc16(s)` (R101): fold from the initial value, no final XOR. -/
def crc16 (s : List Byte) : Word := s.foldl crcStep crcInitial

end Sys2Proof.Machine
end

