-- ==== Sys2Proof/Machine/Frame.lean ====
section
/-! DEFINITION. Bytes of a word and the byte layouts of the wire frames (20_memory.md R53, 30_encoding.md R86 to R89). -/

namespace Sys2Proof.Machine

/-- `v[15:8]`. -/
def hi8 (v : Word) : Byte := v.extractLsb' 8 8

/-- `v[7:0]`. -/
def lo8 (v : Word) : Byte := v.extractLsb' 0 8

/-- The word with high byte h and low byte l (00_scope.md R10). -/
def cat16 (h l : Byte) : Word := (h.setWidth 16 <<< 8) ||| l.setWidth 16

/-- `ceil_div(a, b)` (00_scope.md R10). -/
def ceilDiv (a b : Nat) : Nat := (a + b - 1) / b

/-- N, the data bytes of a read-bits response to a request for c coils (30_encoding.md R88). -/
def coilBytes (c : Word) : Nat := ceilDiv c.toNat 8

/-- The CRC field of a frame: low byte first (R89). -/
def crcField (c : Word) : List Byte := [lo8 c, hi8 c]

/-- The bytes of a frame before its CRC, then its CRC field (R86). -/
def frameOf (body : List Byte) (c : Word) : List Byte := body ++ crcField c

/-- The first six bytes of a request, and of a write echo: S, F, A and W, high byte first (R87, R88, R89). -/
def sixBody (sl fc : Byte) (a w : Word) : List Byte := [sl, fc, hi8 a, lo8 a, hi8 w, lo8 w]

/-- A read-bits response before its CRC: S, 0x01, the byte count, the data bytes (R88). -/
def readBitsBody (sl : Byte) (d : List Byte) : List Byte := sl :: 0x01#8 :: BitVec.ofNat 8 d.length :: d

/-- A read-register response before its CRC: S, 0x03, 0x02, the word high byte first (R88). -/
def readRegisterBody (sl : Byte) (w : Word) : List Byte := [sl, 0x03#8, 0x02#8, hi8 w, lo8 w]

/-- An exception response before its CRC: S, the function code with bit 7 set, the exception code (R88, R91). -/
def exceptionBody (sl : Byte) (f : BitVec 7) (x : Byte) : List Byte := [sl, 0x80#8 ||| f.setWidth 8, x]

/-- The two coil values of a write-bit request (R87; 41_encoder.md R123). -/
def coilOn : Word := 0xFF00#16

/-- The coil value *false*. -/
def coilOff : Word := 0x0000#16

/-- The value field of a write-bit request: 0xFF00 when VALUE is not 0 (41_encoder.md R123, 10_state.md R34). -/
def coilWord (value : Word) : Word := if value = 0 then coilOff else coilOn

/-- `build_req(s, fc, a, w)` (41_encoder.md R120). -/
def buildReq (sl fc : Byte) (a w : Word) : Vector Byte 8 :=
  let c := crc16 (sixBody sl fc a w)
  #v[sl, fc, hi8 a, lo8 a, hi8 w, lo8 w, lo8 c, hi8 c]

end Sys2Proof.Machine
end

