-- ==== Sys2Proof/WellFormed.lean ====
section
/-! DEFINITION. Which instructions are well formed: the coil count in [1, 2000] (41_encoder.md R121), a read-bits
response of 6 to 255 bytes (42_decoder.md R147), and the CRC of R86 in every frame. -/

namespace Sys2Proof

open Machine

/-- COUNT in [1, 2000] (41_encoder.md R121). -/
def countOk (n : Word) : Bool := decide (Config.countMin ≤ n.toNat ∧ n.toNat ≤ Config.countMax)

/-- The frame's CRC field holds the CRC of the bytes before it (30_encoding.md R86). -/
def crcFits (body : List Byte) (c : Word) : Bool := decide (crc16 body = c)

/-- The checks of each row of the opcode table. A command has no operand, so no check. -/
def wellFormed : Instr → Bool
  | .crcInit => true
  | .crcFeed => true
  | .chkCrc => true
  | .chkExc => true
  | .encRB => true
  | .encRR => true
  | .encWB => true
  | .encWR => true
  | .decRB => true
  | .decRR => true
  | .decWB => true
  | .decWR => true
  | .xfer => true
  | .txnRB => true
  | .txnRR => true
  | .txnWB => true
  | .txnWR => true
  | .reqReadBits sl a n c => countOk n && crcFits (sixBody sl 0x01#8 a n) c
  | .reqReadRegister sl a c => crcFits (sixBody sl 0x03#8 a 0x0001#16) c
  | .reqWriteBitOn sl a c => crcFits (sixBody sl 0x05#8 a coilOn) c
  | .reqWriteBitOff sl a c => crcFits (sixBody sl 0x05#8 a coilOff) c
  | .reqWriteRegister sl a v c => crcFits (sixBody sl 0x06#8 a v) c
  | .rspReadBits sl d c => decide (1 ≤ d.length ∧ d.length ≤ 250) && crcFits (readBitsBody sl d) c
  | .rspReadRegister sl w c => crcFits (readRegisterBody sl w) c
  | .rspWriteBitEcho sl a e c => crcFits (sixBody sl 0x05#8 a e) c
  | .rspWriteRegisterEcho sl a e c => crcFits (sixBody sl 0x06#8 a e) c
  | .rspException sl f x c => crcFits (exceptionBody sl f x) c

end Sys2Proof
end

