-- ==== Sys2Proof/Decode.lean ====
section
/-! DEFINITION. The decoder, total on every form, and the encoder, both written from 30_encoding.md R80 to R93. -/

namespace Sys2Proof

open Machine

/-- The command table (30_encoding.md R81): the full 16-bit code of each command. -/
def commandTable : List (Word × Instr) :=
  [(0x0001#16, .crcInit), (0x0002#16, .crcFeed), (0x0003#16, .chkCrc), (0x0004#16, .chkExc),
   (0x0010#16, .encRB), (0x0011#16, .encRR), (0x0012#16, .encWB), (0x0013#16, .encWR),
   (0x0020#16, .decRB), (0x0021#16, .decRR), (0x0022#16, .decWB), (0x0023#16, .decWR),
   (0x0030#16, .xfer), (0x0040#16, .txnRB), (0x0041#16, .txnRR), (0x0042#16, .txnWB),
   (0x0043#16, .txnWR)]

/-- The command decoder (R84): the row with this code, every other value rejected. -/
def decodeCommand (c : Word) : Decoded :=
  match commandTable.find? (fun r => decide (r.1 = c)) with
  | some r => .instr r.2
  | none => .reject .illegalCommand

/-- The request formats by function code (30_encoding.md R87): `a` and `w` are the two 16-bit fields, `c` the CRC. -/
def decodeRequestFields (sl fc : Byte) (a w c : Word) : Decoded :=
  if fc = 0x01#8 then .instr (.reqReadBits sl a w c)
  else if fc = 0x03#8 then
    if w = 0x0001#16 then .instr (.reqReadRegister sl a c) else .reject .wrongFixedField
  else if fc = 0x05#8 then
    if w = coilOn then .instr (.reqWriteBitOn sl a c)
    else if w = coilOff then .instr (.reqWriteBitOff sl a c)
    else .reject .wrongFixedField
  else if fc = 0x06#8 then .instr (.reqWriteRegister sl a w c)
  else .reject .unknownFunction

/-- A request is 8 bytes (R87, R93). -/
def decodeRequest : List Byte → Decoded
  | [sl, fc, a1, a0, w1, w0, c0, c1] => decodeRequestFields sl fc (cat16 a1 a0) (cat16 w1 w0) (cat16 c1 c0)
  | _ => .reject .wrongLength

/-- After S and F, an exception response holds the code and the CRC (R88, R91). -/
def decodeException (sl fc : Byte) : List Byte → Decoded
  | [x, c0, c1] => .instr (.rspException sl (fc.extractLsb' 0 7) x (cat16 c1 c0))
  | _ => .reject .wrongLength

/-- After S and F, a read-bits response holds the byte count N, N data bytes and the CRC (R88). -/
def decodeReadBits (sl : Byte) : List Byte → Decoded
  | n :: rest =>
    if rest.length = n.toNat + 2 then
      .instr (.rspReadBits sl (rest.take n.toNat) (cat16 (rest.getD (n.toNat + 1) 0) (rest.getD n.toNat 0)))
    else .reject .wrongLength
  | [] => .reject .wrongLength

/-- After S and F, a read-register response holds 0x02, the word and the CRC (R88). -/
def decodeReadRegister (sl : Byte) : List Byte → Decoded
  | [n, w1, w0, c0, c1] =>
    if n = 0x02#8 then .instr (.rspReadRegister sl (cat16 w1 w0) (cat16 c1 c0)) else .reject .wrongFixedField
  | _ => .reject .wrongLength

/-- After S and F, a write echo holds the Address, the value and the CRC (R88). -/
def decodeEcho (mk : Word → Word → Word → Instr) : List Byte → Decoded
  | [a1, a0, e1, e0, c0, c1] => .instr (mk (cat16 a1 a0) (cat16 e1 e0) (cat16 c1 c0))
  | _ => .reject .wrongLength

/-- The response formats by function code; bit 7 marks an exception response (R88, R91). -/
def decodeResponse : List Byte → Decoded
  | sl :: fc :: rest =>
    if fc.getLsbD 7 then decodeException sl fc rest
    else if fc = 0x01#8 then decodeReadBits sl rest
    else if fc = 0x03#8 then decodeReadRegister sl rest
    else if fc = 0x05#8 then decodeEcho (Instr.rspWriteBitEcho sl) rest
    else if fc = 0x06#8 then decodeEcho (Instr.rspWriteRegisterEcho sl) rest
    else .reject .unknownFunction
  | _ => .reject .wrongLength

/-- The decoder. -/
def decode : Form → Decoded
  | .command c => decodeCommand c
  | .request bs => decodeRequest bs
  | .response bs => decodeResponse bs

/-- The encoder: the CMD value of each command (R81), the bytes of each wire format (R87, R88). -/
def encode : Instr → Form
  | .crcInit => .command 0x0001#16
  | .crcFeed => .command 0x0002#16
  | .chkCrc => .command 0x0003#16
  | .chkExc => .command 0x0004#16
  | .encRB => .command 0x0010#16
  | .encRR => .command 0x0011#16
  | .encWB => .command 0x0012#16
  | .encWR => .command 0x0013#16
  | .decRB => .command 0x0020#16
  | .decRR => .command 0x0021#16
  | .decWB => .command 0x0022#16
  | .decWR => .command 0x0023#16
  | .xfer => .command 0x0030#16
  | .txnRB => .command 0x0040#16
  | .txnRR => .command 0x0041#16
  | .txnWB => .command 0x0042#16
  | .txnWR => .command 0x0043#16
  | .reqReadBits sl a n c => .request (frameOf (sixBody sl 0x01#8 a n) c)
  | .reqReadRegister sl a c => .request (frameOf (sixBody sl 0x03#8 a 0x0001#16) c)
  | .reqWriteBitOn sl a c => .request (frameOf (sixBody sl 0x05#8 a coilOn) c)
  | .reqWriteBitOff sl a c => .request (frameOf (sixBody sl 0x05#8 a coilOff) c)
  | .reqWriteRegister sl a v c => .request (frameOf (sixBody sl 0x06#8 a v) c)
  | .rspReadBits sl d c => .response (frameOf (readBitsBody sl d) c)
  | .rspReadRegister sl w c => .response (frameOf (readRegisterBody sl w) c)
  | .rspWriteBitEcho sl a e c => .response (frameOf (sixBody sl 0x05#8 a e) c)
  | .rspWriteRegisterEcho sl a e c => .response (frameOf (sixBody sl 0x06#8 a e) c)
  | .rspException sl f x c => .response (frameOf (exceptionBody sl f x) c)

/-- The n bytes of a frame written as one number with byte 0 in its highest bits, as the opcode table writes its
wire formats ("bits 63:56, slave address (byte 0)"; log 13). -/
def wireBytes : Nat → Nat → List Byte
  | 0, _ => []
  | n + 1, w => BitVec.ofNat 8 (w / 256 ^ n) :: wireBytes n w

/-- The form the table's word stands for: 16 bits a command; 8 bits the function-code byte of RSP_READ_BITS, every
other byte of the frame 0; 40 or 56 bits a response; 64 bits a request where it reads as one, else a response
(log 13). -/
def tableForm (nbits w : Nat) : Option Form :=
  if w < 2 ^ nbits then
    if nbits = 16 then some (.command (BitVec.ofNat 16 w))
    else if nbits = 8 then
      if w = 1 then some (.response [0x00#8, 0x01#8, 0x00#8, 0x00#8, 0x00#8]) else none
    else if nbits = 40 then some (.response (wireBytes 5 w))
    else if nbits = 56 then some (.response (wireBytes 7 w))
    else if nbits = 64 then
      match decode (.request (wireBytes 8 w)) with
      | .instr _ => some (.request (wireBytes 8 w))
      | .reject _ => some (.response (wireBytes 8 w))
    else none
  else none

/-- The instruction of a decoder's answer. -/
def Decoded.toOption : Decoded → Option Instr
  | .instr i => some i
  | .reject _ => none

/-- The instruction the decoder reads from the table's word. -/
def decodeTableWord (nbits w : Nat) : Option Instr :=
  (tableForm nbits w).bind fun f => (decode f).toOption

end Sys2Proof
end

