-- ==== Sys2Proof/Machine/State.lean ====
section
/-! DEFINITION. The state of the MBRTU engine as plain data (10_state.md R20 to R44) and its reset
(70_reset_and_hazards.md R231). -/

namespace Sys2Proof.Machine

/-- The machine has no fault: an error of the block ends a command and is recorded in STATUS (60_exceptions.md R200 to
R208), which is a next state. Nothing raises one. -/
inductive Fault where
  deriving DecidableEq, Repr

/-- The one refusal is the name the host gives an instruction without a meaning. -/
inductive Refusal where
  /-- raised by no arm: every instruction of the table has its meaning (safe) -/
  | notModelled (mnemonic : String)
  deriving DecidableEq, Repr

/-- The error kinds of 60_exceptions.md R202; `none` is success. Codes 11 to 15 are reserved and never produced, so no
constructor stands for them. -/
inductive ErrKind where
  | none
  | invalidArgument
  | crcMismatch
  | unexpectedEcho
  | deviceException
  | noResponse
  | truncatedResponse
  | protocolError
  | channelError
  | illegalCommand
  | nonContiguousBundle
  deriving DecidableEq, Repr

/-- PHASE (10_state.md R36). -/
inductive Phase where
  | idle
  | send
  | recv
  deriving DecidableEq, Repr

/-- The fields of STATUS (10_state.md R24); the word HOST reads is `Status.toWord` in Flags.lean. -/
structure Status where
  busy : Bool
  done : Bool
  err : Bool
  rvalid : Bool
  errKind : ErrKind
  attempts : BitVec 2
  excv : Bool
  ign : Bool
  deriving DecidableEq, Repr

/-- CHANNEL's answer to one ChanWrite (43_arbiter.md R170). -/
inductive TxAnswer where
  | ok
  | fail
  deriving DecidableEq, Repr

/-- What happens next at the block's boundary: one HOST access (20_memory.md R50), one SEND step with CHANNEL's answer
to it (43_arbiter.md R174, R175), received bytes in order with nothing between them (log 3; `@ch RX b0 b1 ...`, 30_encoding.md
R95; one RX_BYTE is a list of one byte), RX_TIMEOUT (R170), or reset (70_reset_and_hazards.md R230). -/
inductive Event where
  | hostRead (a : BitVec 10)
  | hostWrite (a : BitVec 10) (v : Word)
  | tx (ans : TxAnswer)
  | rx (bs : List Byte)
  | rxTimeout
  | reset
  deriving DecidableEq, Repr

/-- Everything the spec gives the machine, then the model's own fields `era`, `events`, `reads` and `sent`
(INVENTORY.md, State). -/
structure State where
  /-- STATUS (R24) -/
  status : Status
  /-- SLAVE (R31) -/
  slave : Byte
  /-- ADDR (R32) -/
  addr : Word
  /-- COUNT (R33) -/
  count : Word
  /-- VALUE (R34) -/
  value : Word
  /-- DATA (R35) -/
  data : Byte
  /-- CRC, the accumulator (R37) -/
  crc : Word
  /-- RESULT (R38) -/
  result : Word
  /-- EXC (R39) -/
  exc : Byte
  /-- TX_LEN (R40) -/
  txLen : BitVec 4
  /-- RX_LEN (R41) -/
  rxLen : BitVec 9
  /-- RXBUF (R41): the bytes written since the last reset, indexes strictly rising (log 6) -/
  rxbuf : List Host.Cell
  /-- TXBUF (R40) -/
  txbuf : Vector Byte 8
  /-- COIL (R42): bit i is COIL[i] -/
  coil : BitVec 2000
  /-- PHASE, hidden (R36) -/
  phase : Phase
  /-- OP, hidden (R36) -/
  op : Op
  /-- EXPLEN, hidden (R36) -/
  explen : Nat
  /-- the model's: how many resets have been applied, the argument of the free values (log 6) -/
  era : Nat
  /-- the model's: the schedule still to come, next first (log 1) -/
  events : List Event
  /-- the model's: what HOST's reads returned, oldest first (log 11) -/
  reads : List Word
  /-- the model's: the requests handed to CHANNEL, oldest first (log 11) -/
  sent : List (Vector Byte 8)
  deriving DecidableEq, Repr

/-- STATUS after reset, 0x0000 (70_reset_and_hazards.md R231). -/
def Status.reset : Status :=
  { busy := false, done := false, err := false, rvalid := false, errKind := .none, attempts := 0, excv := false,
    ign := false }

/-- TXBUF after reset number `era`: unspecified bytes (R231; log 6). -/
def unspecifiedTxbuf (era : Nat) : Vector Byte 8 :=
  #v[Config.freeTxByte era 0, Config.freeTxByte era 1, Config.freeTxByte era 2, Config.freeTxByte era 3,
     Config.freeTxByte era 4, Config.freeTxByte era 5, Config.freeTxByte era 6, Config.freeTxByte era 7]

/-- The block's state after reset number `era` (R231), with the model's own `events`, `reads` and `sent` as given:
those belong to HOST and CHANNEL, which the reset does not reach (R232). -/
def State.afterReset (era : Nat) (events : List Event) (reads : List Word) (sent : List (Vector Byte 8)) : State :=
  { status := Status.reset, slave := 0, addr := 0, count := 0, value := 0, data := 0, crc := 0xFFFF#16, result := 0,
    exc := 0, txLen := 0, rxLen := 0, rxbuf := [], txbuf := unspecifiedTxbuf era, coil := 0, phase := .idle,
    op := Config.freeOp era, explen := Config.freeExplen era, era := era, events := events, reads := reads,
    sent := sent }

/-- The machine right after reset (R231), with nothing scheduled (log 2). -/
def State.reset : State := State.afterReset 0 [] [] []

end Sys2Proof.Machine
end

