-- ==== Sys2Proof/Machine/Flags.lean ====
section
/-! DEFINITION. STATUS: the word HOST reads, the acceptance prologue and the two ends of a command
(10_state.md R24 to R30, 60_exceptions.md R200 to R203). -/

namespace Sys2Proof.Machine

/-- The 4-bit codes of STATUS.ERRKIND (60_exceptions.md R202). -/
def ErrKind.code : ErrKind → BitVec 4
  | .none => 0
  | .invalidArgument => 1
  | .crcMismatch => 2
  | .unexpectedEcho => 3
  | .deviceException => 4
  | .noResponse => 5
  | .truncatedResponse => 6
  | .protocolError => 7
  | .channelError => 8
  | .illegalCommand => 9
  | .nonContiguousBundle => 10

/-- A flag as one bit. -/
def bit (b : Bool) : BitVec 1 := if b then 1 else 0

/-- STATUS as HOST reads it (10_state.md R24): 15:12 reserved 0, 11 IGN, 10 EXCV, 9:8 ATTEMPTS, 7:4 ERRKIND, 3 RVALID,
2 ERR, 1 DONE, 0 BUSY. -/
def Status.toWord (f : Status) : Word :=
  0#4 ++ bit f.ign ++ bit f.excv ++ f.attempts ++ f.errKind.code ++ bit f.rvalid ++ bit f.err ++ bit f.done ++ bit f.busy

/-- The STATUS part of the acceptance prologue (60_exceptions.md R203); BUSY keeps its value. -/
def Status.accept (f : Status) : Status :=
  { f with done := false, err := false, errKind := .none, rvalid := false, excv := false, attempts := 0, ign := false }

/-- The STATUS part of `finish_ok` (R200). -/
def Status.finishOk (f : Status) : Status :=
  { f with err := false, errKind := .none, busy := false, done := true }

/-- The STATUS part of `raise K` (R201). -/
def Status.raise (k : ErrKind) (f : Status) : Status :=
  { f with err := true, errKind := k, busy := false, done := true }

end Sys2Proof.Machine
end

