-- ==== Sys2Proof/Machine/Ops.lean ====
section
/-! DEFINITION. The named operations over the registers and buffers, each written once: the two ends of a command
(60_exceptions.md R200, R201), the acceptance prologue (R203), the buffers (10_state.md R40, R41), and reset
(70_reset_and_hazards.md R231, R232). -/

namespace Sys2Proof.Machine

/-! ### RXBUF as a list of written bytes -/

/-- The byte written at index i, if one was. -/
def Memory.find (m : List Host.Cell) (i : Nat) : Option Byte :=
  match m with
  | [] => none
  | (k, b) :: rest => if k = i then some b else Memory.find rest i

/-- Put byte b at index i, keeping the indexes strictly rising. -/
def Memory.put (m : List Host.Cell) (i : Nat) (b : Byte) : List Host.Cell :=
  match m with
  | [] => [(i, b)]
  | (k, v) :: rest =>
    if i < k then (i, b) :: (k, v) :: rest
    else if i = k then (i, b) :: rest
    else (k, v) :: Memory.put rest i b

/-- The canonical form of RXBUF: indexes strictly rising, all below 256. -/
abbrev Memory.wf (m : List Host.Cell) : Prop :=
  m.Pairwise (fun x y => x.1 < y.1) ∧ ∀ x ∈ m, x.1 < 256

/-- RXBUF[i]: the byte written there, or the unspecified byte reset left (R41, R231; log 6). -/
def rxAt (s : State) (i : Nat) : Byte :=
  (Memory.find s.rxbuf i).getD (Config.freeRxByte s.era i)

/-- `RXBUF[i] <- b`. RXBUF has 256 entries (R41): no byte lies beyond (log 14). -/
def setRx (i : Nat) (b : Byte) (s : State) : State :=
  { s with rxbuf := if i < 256 then Memory.put s.rxbuf i b else s.rxbuf }

/-- The byte sequence rx = RXBUF[0..RX_LEN-1] the decoders read (42_decoder.md, head). -/
def rxFrame (s : State) : List Byte :=
  (List.range s.rxLen.toNat).map (rxAt s)

/-! ### The two ends of a command, and its acceptance -/

/-- `finish_ok` (60_exceptions.md R200). -/
def finishOk (s : State) : State :=
  { s with status := s.status.finishOk, phase := .idle }

/-- `raise K` (60_exceptions.md R201), the block's one way to take an exception: nothing is saved and no handler runs;
the kind stands in STATUS until the next accepted command's prologue or reset clears it (R208). -/
def raiseErr (k : ErrKind) (s : State) : State :=
  { s with status := s.status.raise k, phase := .idle }

/-- The acceptance prologue (R203). It is also the only way, beside reset, by which a recorded error is left (R208). -/
def acceptPrologue (s : State) : State :=
  { s with status := s.status.accept, exc := 0 }

/-- STATUS.IGN <- 1 (10_state.md R30). -/
def setIgn (s : State) : State :=
  { s with status := { s.status with ign := true } }

/-- `EXC <- x; STATUS.EXCV <- 1` (42_decoder.md R142, R144). -/
def recordExc (x : Byte) (s : State) : State :=
  { s with exc := x, status := { s.status with excv := true } }

/-- `STATUS.RVALID <- 1` (R146, R148). -/
def setRvalid (s : State) : State :=
  { s with status := { s.status with rvalid := true } }

/-- `COIL[0..1999] <- v` (R146). -/
def setCoil (v : BitVec 2000) (s : State) : State := { s with coil := v }

/-- `RESULT <- w` (R148). -/
def setResult (w : Word) (s : State) : State := { s with result := w }

/-- `CRC <- w` (40_crc.md R102, R103). -/
def setCrc (w : Word) (s : State) : State := { s with crc := w }

/-- A CMD write of a command with the given body (10_state.md R23, 30_encoding.md R84): ignored with IGN while BUSY,
else the prologue and then the body. -/
def issue (body : State → State) (s : State) : State :=
  if s.status.busy then setIgn s else body (acceptPrologue s)

/-! ### Encoding -/

/-- `TXBUF[0..7] <- build_req(SLAVE, fc, ADDR, w); TX_LEN <- 8` (41_encoder.md R120). -/
def putRequest (fc : Byte) (w : Word) (s : State) : State :=
  { s with txbuf := buildReq s.slave fc s.addr w, txLen := 8 }

/-- `TX_LEN <- 0` (R121). -/
def dropRequest (s : State) : State := { s with txLen := 0 }

/-! ### Events and reset -/

/-- The schedule moves on by one entry. -/
def popEvent (s : State) : State := { s with events := s.events.tail }

/-- Reset, at any step (70_reset_and_hazards.md R230 to R232). -/
def resetBlock (s : State) : State :=
  State.afterReset (s.era + 1) s.events s.reads s.sent

end Sys2Proof.Machine
end

