-- ==== Sys2Proof/Machine/CrcUnit.lean ====
section
/-! DEFINITION. CRC_INIT and CRC_FEED, the stand-alone CRC generator (40_crc.md R102, R103). -/

namespace Sys2Proof.Machine

/-- `CRC <- 0xFFFF; finish_ok` (R102). -/
def crcInitBody (s : State) : State := finishOk (setCrc crcInitial s)

/-- `CRC <- crc_step(CRC, DATA[7:0]); finish_ok` (R103). -/
def crcFeedBody (s : State) : State := finishOk (setCrc (crcStep s.crc s.data) s)

/-- CRC_INIT, CMD = 0x0001 (R102). -/
def execCrcInit (s : State) : Host.Outcome State Fault Refusal := .next (issue crcInitBody s)

/-- CRC_FEED, CMD = 0x0002 (R103). -/
def execCrcFeed (s : State) : Host.Outcome State Fault Refusal := .next (issue crcFeedBody s)

end Sys2Proof.Machine
end

