-- ==== Sys2Proof/Machine/Decoder.lean ====
section
/-! DEFINITION. CHK_CRC, CHK_EXC, DEC_RB, DEC_RR, DEC_WB, DEC_WR and the coil unpacker (42_decoder.md R140 to R152).
The frame rx is RXBUF[0..RX_LEN-1] and n is its length, RX_LEN. -/

namespace Sys2Proof.Machine

/-- `rx[i]`; every rule reads an index below the length it has checked (log 14). -/
def byteAt (rx : List Byte) (i : Nat) : Byte := rx.getD i 0

/-- The big-endian word at bytes i and i + 1 (30_encoding.md R89). -/
def wordAt (rx : List Byte) (i : Nat) : Word := cat16 (byteAt rx i) (byteAt rx (i + 1))

/-- `crc_ok(rx, n)` (R141): the CRC of all but the last two bytes is the CRC field. -/
def crcOk (rx : List Byte) : Bool :=
  decide (crc16 (rx.take (rx.length - 2)) = cat16 (byteAt rx (rx.length - 1)) (byteAt rx (rx.length - 2)))

/-- How a frame check ends: an error kind, an exception response with its code, or passed. -/
inductive Verdict where
  | bad (k : ErrKind)
  | exception (x : Byte)
  | good
  deriving DecidableEq, Repr

/-- `frame_check(efc)` (R142), in the order of its lines; the slave address is not compared. -/
def frameCheck (efc : Byte) (rx : List Byte) : Verdict :=
  if rx.length < 4 then .bad .protocolError
  else if !crcOk rx then .bad .crcMismatch
  else if (byteAt rx 1).getLsbD 7 then
    if (byteAt rx 1).extractLsb' 0 7 ≠ efc.extractLsb' 0 7 then .bad .protocolError
    else if rx.length ≠ 5 then .bad .protocolError
    else .exception (byteAt rx 2)
  else if byteAt rx 1 ≠ efc then .bad .protocolError
  else .good

/-- `frame_check(efc)` and then, where it passes, the rest of the decoder on the frame. -/
def withFrame (efc : Byte) (k : List Byte → State → State) (s : State) : State :=
  match frameCheck efc (rxFrame s) with
  | .bad e => raiseErr e s
  | .exception x => raiseErr .deviceException (recordExc x s)
  | .good => k (rxFrame s) s

/-- The bytes as one number, the first byte lowest, cut to 2000 bits: bit i is bit i mod 8 of byte i div 8. -/
def bytesLE : List Byte → BitVec 2000
  | [] => 0
  | b :: rest => b.setWidth 2000 ||| (bytesLE rest <<< 8)

/-- `unpack(rx, c)` (R145): coil i is bit i mod 8 of rx[3 + i div 8] for i < c, and 0 from c on. -/
def unpack (rx : List Byte) (c : Nat) : BitVec 2000 :=
  bytesLE (rx.drop 3) &&& (BitVec.allOnes 2000 >>> (2000 - c))

/-- DEC_RB after its frame check (R146): byte count, then length, then the coils. -/
def decRBRest (rx : List Byte) (s : State) : State :=
  if (byteAt rx 2).toNat ≠ coilBytes s.count then raiseErr .protocolError s
  else if rx.length ≠ 5 + coilBytes s.count then raiseErr .protocolError s
  else finishOk (setRvalid (setCoil (unpack rx s.count.toNat) s))

/-- The body of DEC_RB (R146). -/
def decRBBody (s : State) : State :=
  if countOk s.count then withFrame 0x01#8 decRBRest s else raiseErr .invalidArgument s

/-- DEC_RR after its frame check (R148). -/
def decRRRest (rx : List Byte) (s : State) : State :=
  if byteAt rx 2 ≠ 0x02#8 then raiseErr .protocolError s
  else if rx.length ≠ 7 then raiseErr .protocolError s
  else finishOk (setRvalid (setResult (wordAt rx 3) s))

/-- The body of DEC_RR (R148). -/
def decRRBody (s : State) : State := withFrame 0x03#8 decRRRest s

/-- `write_ack` after its frame check (R149): length, then the Address echo, then the value echo. -/
def writeAckRest (ev : Word) (rx : List Byte) (s : State) : State :=
  if rx.length ≠ 8 then raiseErr .protocolError s
  else if wordAt rx 2 ≠ s.addr then raiseErr .unexpectedEcho s
  else if wordAt rx 4 ≠ ev then raiseErr .unexpectedEcho s
  else finishOk s

/-- The body of DEC_WB (R150). -/
def decWBBody (s : State) : State := withFrame 0x05#8 (writeAckRest (coilWord s.value)) s

/-- The body of DEC_WR (R151). -/
def decWRBody (s : State) : State := withFrame 0x06#8 (writeAckRest s.value) s

/-- The body of CHK_CRC (R143). -/
def chkCrcBody (s : State) : State :=
  if (rxFrame s).length < 4 then raiseErr .protocolError s
  else if !crcOk (rxFrame s) then raiseErr .crcMismatch s
  else finishOk s

/-- The body of CHK_EXC (R144): an exception response is reported in EXCV and EXC, not raised. -/
def chkExcBody (s : State) : State :=
  if (rxFrame s).length < 4 then raiseErr .protocolError s
  else if !crcOk (rxFrame s) then raiseErr .crcMismatch s
  else if (byteAt (rxFrame s) 1).getLsbD 7 then
    if (rxFrame s).length ≠ 5 then raiseErr .protocolError s
    else finishOk (recordExc (byteAt (rxFrame s) 2) s)
  else finishOk s

/-- CHK_CRC, CMD = 0x0003 (R143). -/
def execChkCrc (s : State) : Host.Outcome State Fault Refusal := .next (issue chkCrcBody s)

/-- CHK_EXC, CMD = 0x0004 (R144). -/
def execChkExc (s : State) : Host.Outcome State Fault Refusal := .next (issue chkExcBody s)

/-- DEC_RB, CMD = 0x0020 (R146). -/
def execDecRB (s : State) : Host.Outcome State Fault Refusal := .next (issue decRBBody s)

/-- DEC_RR, CMD = 0x0021 (R148). -/
def execDecRR (s : State) : Host.Outcome State Fault Refusal := .next (issue decRRBody s)

/-- DEC_WB, CMD = 0x0022 (R150). -/
def execDecWB (s : State) : Host.Outcome State Fault Refusal := .next (issue decWBBody s)

/-- DEC_WR, CMD = 0x0023 (R151). -/
def execDecWR (s : State) : Host.Outcome State Fault Refusal := .next (issue decWRBody s)

end Sys2Proof.Machine
end

