-- ==== Sys2Proof/Machine/Encoder.lean ====
section
/-! DEFINITION. ENC_RB, ENC_RR, ENC_WB, ENC_WR (41_encoder.md R120 to R125). A body takes what runs after the request
stands in TXBUF: `finishOk` for an encoder, the start of the exchange for TXN_* (43_arbiter.md R178). -/

namespace Sys2Proof.Machine

/-- ENC_RB without its finish_ok (R121). -/
def encRBBody (k : State → State) (s : State) : State :=
  if countOk s.count then k (putRequest 0x01#8 s.count s)
  else raiseErr .invalidArgument (dropRequest s)

/-- ENC_RR without its finish_ok (R122): the count field is 1. -/
def encRRBody (k : State → State) (s : State) : State := k (putRequest 0x03#8 0x0001#16 s)

/-- ENC_WB without its finish_ok (R123): 0xFF00 when VALUE is not 0, else 0x0000. -/
def encWBBody (k : State → State) (s : State) : State := k (putRequest 0x05#8 (coilWord s.value) s)

/-- ENC_WR without its finish_ok (R124). -/
def encWRBody (k : State → State) (s : State) : State := k (putRequest 0x06#8 s.value s)

/-- ENC_RB, CMD = 0x0010 (R121). -/
def execEncRB (s : State) : Host.Outcome State Fault Refusal := .next (issue (encRBBody finishOk) s)

/-- ENC_RR, CMD = 0x0011 (R122). -/
def execEncRR (s : State) : Host.Outcome State Fault Refusal := .next (issue (encRRBody finishOk) s)

/-- ENC_WB, CMD = 0x0012 (R123). -/
def execEncWB (s : State) : Host.Outcome State Fault Refusal := .next (issue (encWBBody finishOk) s)

/-- ENC_WR, CMD = 0x0013 (R124). -/
def execEncWR (s : State) : Host.Outcome State Fault Refusal := .next (issue (encWRBody finishOk) s)

end Sys2Proof.Machine
end

