-- ==== Sys2Proof/Machine/Arbiter.lean ====
section
/-! DEFINITION. XFER and TXN_*, the SEND step, reception, completion and the timeout with its one retry
(43_arbiter.md R170 to R184). -/

namespace Sys2Proof.Machine

/-- `explen(t)` (R173). A function code R173 does not list is never in TXBUF when a request is (log 8). -/
def explenOf (t : Vector Byte 8) : Nat :=
  if t[1] = 0x01#8 then 5 + coilBytes (cat16 t[4] t[5])
  else if t[1] = 0x03#8 then 7
  else if t[1] = 0x05#8 then 8
  else if t[1] = 0x06#8 then 8
  else Config.unstatedExplen t[1]

/-- `OP <- op; EXPLEN <- explen(TXBUF); PHASE <- SEND; STATUS.BUSY <- 1` (R172, R178). -/
def startExchange (op : Op) (s : State) : State :=
  { s with op := op, explen := explenOf s.txbuf, phase := .send, status := { s.status with busy := true } }

/-- XFER at acceptance (R172): nothing encoded is InvalidArgument. -/
def xferBody (s : State) : State :=
  if s.txLen = 8 then startExchange .xfer s else raiseErr .invalidArgument s

/-- XFER, CMD = 0x0030 (R172). -/
def execXfer (s : State) : Host.Outcome State Fault Refusal := .next (issue xferBody s)

/-- TXN_RB, CMD = 0x0040 (R178). -/
def execTxnRB (s : State) : Host.Outcome State Fault Refusal := .next (issue (encRBBody (startExchange .txnRB)) s)

/-- TXN_RR, CMD = 0x0041 (R178). -/
def execTxnRR (s : State) : Host.Outcome State Fault Refusal := .next (issue (encRRBody (startExchange .txnRR)) s)

/-- TXN_WB, CMD = 0x0042 (R178). -/
def execTxnWB (s : State) : Host.Outcome State Fault Refusal := .next (issue (encWBBody (startExchange .txnWB)) s)

/-- TXN_WR, CMD = 0x0043 (R178). -/
def execTxnWR (s : State) : Host.Outcome State Fault Refusal := .next (issue (encWRBody (startExchange .txnWR)) s)

/-- `ChanWrite(TXBUF[0..7])` with what goes before it in the SEND step: RX_LEN <- 0, one more attempt (R174); ATTEMPTS
is 2 bits wide (log 14). -/
def chanWrite (s : State) : State :=
  { s with rxLen := 0, status := { s.status with attempts := s.status.attempts + 1 }, sent := s.sent ++ [s.txbuf] }

/-- The write outcome (R175): TX_OK opens reception, TX_FAIL raises ChannelError and is never retried. -/
def writeOutcome (ans : TxAnswer) (s : State) : State :=
  match ans with
  | .ok => { s with phase := .recv }
  | .fail => raiseErr .channelError s

/-- The SEND step with CHANNEL's answer in the same step (R174, R175). -/
def sendStep (ans : TxAnswer) (s : State) : State := writeOutcome ans (chanWrite s)

/-- `complete()` (R177): XFER ends, TXN_x runs the body of DEC_x on the frame received. -/
def complete (s : State) : State :=
  match s.op with
  | .xfer => finishOk s
  | .txnRB => decRBBody s
  | .txnRR => decRRBody s
  | .txnWB => decWBBody s
  | .txnWR => decWRBody s

/-- `RXBUF[RX_LEN] <- b; RX_LEN <- RX_LEN + 1` (R176); RX_LEN is 9 bits wide (log 14). -/
def appendRx (b : Byte) (s : State) : State :=
  { setRx s.rxLen.toNat b s with rxLen := s.rxLen + 1 }

/-- A response is complete at EXPLEN bytes, or as an exception response at 5 (R176). -/
def rxComplete (s : State) : Bool :=
  decide (s.rxLen.toNat = s.explen) || (decide (s.rxLen = 5) && (rxAt s 1).getLsbD 7)

/-- RX_BYTE(b) (R176); dropped unless PHASE = RECV (R180). -/
def rxByte (s : State) (b : Byte) : State :=
  if s.phase = .recv then
    if rxComplete (appendRx b s) then complete (appendRx b s) else appendRx b s
  else s

/-- RX_BYTE events in order (30_encoding.md R95, `@ch RX b0 b1 ...`). -/
def receive (bs : List Byte) (s : State) : State := bs.foldl rxByte s

/-- The kind of an attempt that ended in silence (R179). -/
def timeoutKind (s : State) : ErrKind := if s.rxLen = 0 then .noResponse else .truncatedResponse

/-- RX_TIMEOUT (R179): one retry, then the kind of the last attempt; none is delivered unless PHASE = RECV (R180;
log 5). -/
def timeoutStep (s : State) : State :=
  if s.phase = .recv then
    if s.status.attempts.toNat < Config.maxAttempts then { s with phase := .send } else raiseErr (timeoutKind s) s
  else s

/-- The SEND step of the request `f`, run where PHASE = SEND, TXBUF holds `f` and the schedule's next entry is
CHANNEL's answer, which it takes (R174, R175). A request that is not the one to be sent, or is not answered, is not
sent, and nothing changes (log 4, log 12). -/
def transmit (f : List Byte) (s : State) : State :=
  if s.phase = .send ∧ s.txbuf.toList = f then
    match s.events with
    | .tx ans :: _ => sendStep ans (popEvent s)
    | _ => s
  else s

end Sys2Proof.Machine
end

