-- ==== Sys2Proof/Machine/Wire.lean ====
section
/-! DEFINITION. The ten wire formats of the opcode table. A request frame is transmitted by the SEND step (43_arbiter.md
R174, R175); a response frame is received byte by byte (R176, R177, R180). See log 12. -/

namespace Sys2Proof.Machine

/-- REQ_READ_BITS (30_encoding.md R87, 41_encoder.md R121): its SEND step. -/
def execReqReadBits (sl : Byte) (a n c : Word) (s : State) : Host.Outcome State Fault Refusal :=
  .next (transmit (frameOf (sixBody sl 0x01#8 a n) c) s)

/-- REQ_READ_REGISTER (R87, R122): its SEND step. -/
def execReqReadRegister (sl : Byte) (a c : Word) (s : State) : Host.Outcome State Fault Refusal :=
  .next (transmit (frameOf (sixBody sl 0x03#8 a 0x0001#16) c) s)

/-- REQ_WRITE_BIT_ON (R87, R123): its SEND step. -/
def execReqWriteBitOn (sl : Byte) (a c : Word) (s : State) : Host.Outcome State Fault Refusal :=
  .next (transmit (frameOf (sixBody sl 0x05#8 a coilOn) c) s)

/-- REQ_WRITE_BIT_OFF (R87, R123): its SEND step. -/
def execReqWriteBitOff (sl : Byte) (a c : Word) (s : State) : Host.Outcome State Fault Refusal :=
  .next (transmit (frameOf (sixBody sl 0x05#8 a coilOff) c) s)

/-- REQ_WRITE_REGISTER (R87, R124): its SEND step. -/
def execReqWriteRegister (sl : Byte) (a v c : Word) (s : State) : Host.Outcome State Fault Refusal :=
  .next (transmit (frameOf (sixBody sl 0x06#8 a v) c) s)

/-- RSP_READ_BITS (R88, 42_decoder.md R146): its reception. -/
def execRspReadBits (sl : Byte) (d : List Byte) (c : Word) (s : State) : Host.Outcome State Fault Refusal :=
  .next (receive (frameOf (readBitsBody sl d) c) s)

/-- RSP_READ_REGISTER (R88, R148): its reception. -/
def execRspReadRegister (sl : Byte) (w c : Word) (s : State) : Host.Outcome State Fault Refusal :=
  .next (receive (frameOf (readRegisterBody sl w) c) s)

/-- RSP_WRITE_BIT_ECHO (R88, R150): its reception. -/
def execRspWriteBitEcho (sl : Byte) (a e c : Word) (s : State) : Host.Outcome State Fault Refusal :=
  .next (receive (frameOf (sixBody sl 0x05#8 a e) c) s)

/-- RSP_WRITE_REGISTER_ECHO (R88, R151): its reception. -/
def execRspWriteRegisterEcho (sl : Byte) (a e c : Word) (s : State) : Host.Outcome State Fault Refusal :=
  .next (receive (frameOf (sixBody sl 0x06#8 a e) c) s)

/-- RSP_EXCEPTION (R88, R91, R142): its reception. -/
def execRspException (sl : Byte) (f : BitVec 7) (x : Byte) (c : Word) (s : State) :
    Host.Outcome State Fault Refusal :=
  .next (receive (frameOf (exceptionBody sl f x) c) s)

end Sys2Proof.Machine
end

