-- ==== Sys2Proof/Machine/Dispatch.lean ====
section
/-! DEFINITION. One arm per instruction. -/

namespace Sys2Proof.Machine

def exec (i : Instr) (s : State) : Host.Outcome State Fault Refusal :=
  match i with
  | .crcInit => Sys2Proof.Machine.execCrcInit s
  | .crcFeed => Sys2Proof.Machine.execCrcFeed s
  | .chkCrc => Sys2Proof.Machine.execChkCrc s
  | .chkExc => Sys2Proof.Machine.execChkExc s
  | .encRB => Sys2Proof.Machine.execEncRB s
  | .encRR => Sys2Proof.Machine.execEncRR s
  | .encWB => Sys2Proof.Machine.execEncWB s
  | .encWR => Sys2Proof.Machine.execEncWR s
  | .decRB => Sys2Proof.Machine.execDecRB s
  | .decRR => Sys2Proof.Machine.execDecRR s
  | .decWB => Sys2Proof.Machine.execDecWB s
  | .decWR => Sys2Proof.Machine.execDecWR s
  | .xfer => Sys2Proof.Machine.execXfer s
  | .txnRB => Sys2Proof.Machine.execTxnRB s
  | .txnRR => Sys2Proof.Machine.execTxnRR s
  | .txnWB => Sys2Proof.Machine.execTxnWB s
  | .txnWR => Sys2Proof.Machine.execTxnWR s
  | .reqReadBits sl a n c => Sys2Proof.Machine.execReqReadBits sl a n c s
  | .reqReadRegister sl a c => Sys2Proof.Machine.execReqReadRegister sl a c s
  | .reqWriteBitOn sl a c => Sys2Proof.Machine.execReqWriteBitOn sl a c s
  | .reqWriteBitOff sl a c => Sys2Proof.Machine.execReqWriteBitOff sl a c s
  | .reqWriteRegister sl a v c => Sys2Proof.Machine.execReqWriteRegister sl a v c s
  | .rspReadBits sl d c => Sys2Proof.Machine.execRspReadBits sl d c s
  | .rspReadRegister sl w c => Sys2Proof.Machine.execRspReadRegister sl w c s
  | .rspWriteBitEcho sl a e c => Sys2Proof.Machine.execRspWriteBitEcho sl a e c s
  | .rspWriteRegisterEcho sl a e c => Sys2Proof.Machine.execRspWriteRegisterEcho sl a e c s
  | .rspException sl f x c => Sys2Proof.Machine.execRspException sl f x c s

end Sys2Proof.Machine
end

