-- ==== Sys2Proof/Machine/Operands.lean ====
section
/-! DEFINITION. The HOST register map (10_state.md R22): which register a word address names, what a read of it
returns, what a write of it does. -/

namespace Sys2Proof.Machine

/-- The registers of the map; an index is that of the buffer byte or of the coil word. -/
inductive HostReg where
  | cmd
  | status
  | slave
  | addr
  | count
  | value
  | data
  | crc
  | result
  | exc
  | txLen
  | rxLen
  | rxbuf (i : Nat)
  | txbuf (i : Nat)
  | coilw (k : Nat)
  | reserved
  deriving DecidableEq, Repr

/-- The word-address column of R22 below 0x100; 0x00C to 0x0FF are reserved (20_memory.md R54). -/
def controlReg : Nat → HostReg
  | 0x000 => .cmd
  | 0x001 => .status
  | 0x002 => .slave
  | 0x003 => .addr
  | 0x004 => .count
  | 0x005 => .value
  | 0x006 => .data
  | 0x007 => .crc
  | 0x008 => .result
  | 0x009 => .exc
  | 0x00A => .txLen
  | 0x00B => .rxLen
  | _ => .reserved

/-- The word-address column of R22: the control registers, RXBUF, TXBUF, COILW, and the reserved ranges between. -/
def hostReg (a : BitVec 10) : HostReg :=
  if a.toNat < 0x100 then controlReg a.toNat
  else if a.toNat < 0x200 then .rxbuf (a.toNat - 0x100)
  else if a.toNat < 0x208 then .txbuf (a.toNat - 0x200)
  else if a.toNat < 0x300 then .reserved
  else if a.toNat < 0x37D then .coilw (a.toNat - 0x300)
  else .reserved

/-- COILW[k][j] = COIL[16k + j] (R42). -/
def coilWordAt (coil : BitVec 2000) (k : Nat) : Word := coil.extractLsb' (16 * k) 16

/-- What `MemRead` returns (R22, R23, 20_memory.md R54): unused high bits, CMD and reserved words read 0. -/
def readReg (s : State) : HostReg → Word
  | .cmd => 0
  | .status => s.status.toWord
  | .slave => s.slave.setWidth 16
  | .addr => s.addr
  | .count => s.count
  | .value => s.value
  | .data => s.data.setWidth 16
  | .crc => s.crc
  | .result => s.result
  | .exc => s.exc.setWidth 16
  | .txLen => s.txLen.setWidth 16
  | .rxLen => s.rxLen.setWidth 16
  | .rxbuf i => (rxAt s i).setWidth 16
  | .txbuf i => (s.txbuf.toList.getD i 0).setWidth 16
  | .coilw k => coilWordAt s.coil k
  | .reserved => 0

/-- The registers of access code RWP (R22). -/
def HostReg.isProtected : HostReg → Bool
  | .slave | .addr | .count | .value | .data | .rxLen | .rxbuf _ => true
  | .cmd | .status | .crc | .result | .exc | .txLen | .txbuf _ | .coilw _ | .reserved => false

/-- A performed write of an RWP register (R31 to R35, R41): the used bits are stored; a value above 256 for RX_LEN is
ignored (log 9). Every other register keeps its value. -/
def storeReg (r : HostReg) (v : Word) (s : State) : State :=
  match r with
  | .slave => { s with slave := v.setWidth 8 }
  | .addr => { s with addr := v }
  | .count => { s with count := v }
  | .value => { s with value := v }
  | .data => { s with data := v.setWidth 8 }
  | .rxLen => if v.toNat ≤ 256 then { s with rxLen := v.setWidth 9 } else s
  | .rxbuf i => setRx i (v.setWidth 8) s
  | .cmd | .status | .crc | .result | .exc | .txLen | .txbuf _ | .coilw _ | .reserved => s

/-- A HOST write of a register other than CMD (R22, R30): an RWP register is protected while BUSY, which sets IGN
(log 10); a write of a read-only or reserved word is ignored with no flag. -/
def writeReg (r : HostReg) (v : Word) (s : State) : State :=
  if r.isProtected then
    if s.status.busy then setIgn s else storeReg r v s
  else s

/-- A HOST read: no side effect on the block (20_memory.md R56); HOST has the word. -/
def readAccess (a : BitVec 10) (s : State) : State :=
  { s with reads := s.reads ++ [readReg s (hostReg a)] }

end Sys2Proof.Machine
end

