-- ==== Sys2Proof/Machine/Events.lean ====
section
/-! DEFINITION. What each entry of the schedule does, and how an instruction is fetched from it: a CMD write is decoded
as a command (30_encoding.md R84), received bytes as a response, the request in TXBUF as a request. -/

namespace Sys2Proof.Machine

/-- A CMD value that is no command (R84): the prologue, then `raise IllegalCommand()`; ignored while BUSY (10_state.md
R23). -/
def illegalCommand (s : State) : State := issue (raiseErr .illegalCommand) s

/-- A HOST write of v to CMD (R23, R84). -/
def writeCmd (v : Word) (s : State) : Host.Outcome State Fault Refusal :=
  match decode (.command v) with
  | .instr i => exec i s
  | .reject _ => .next (illegalCommand s)

/-- A HOST write (10_state.md R22). -/
def writeAccess (a : BitVec 10) (v : Word) (s : State) : Host.Outcome State Fault Refusal :=
  if hostReg a = .cmd then writeCmd v s else .next (writeReg (hostReg a) v s)

/-- Received bytes (43_arbiter.md R176): a response format's bytes run as that instruction, any others as they are. -/
def rxAccess (bs : List Byte) (s : State) : Host.Outcome State Fault Refusal :=
  match decode (.response bs) with
  | .instr i => exec i s
  | .reject _ => .next (receive bs s)

/-- The SEND step, its entry still at the schedule's head: the request in TXBUF runs as that instruction (R174). A
write's answer while PHASE is not SEND answers nothing and is dropped (log 5). -/
def txAccess (s : State) : Host.Outcome State Fault Refusal :=
  if s.phase = .send then
    match decode (.request s.txbuf.toList) with
    | .instr i => exec i s
    | .reject _ => .next (transmit s.txbuf.toList s)
  else .next (popEvent s)

/-- One entry of the schedule; `s` still has it at the head. -/
def runEvent (e : Event) (s : State) : Host.Outcome State Fault Refusal :=
  match e with
  | .hostRead a => .next (readAccess a (popEvent s))
  | .hostWrite a v => writeAccess a v (popEvent s)
  | .tx _ => txAccess s
  | .rx bs => rxAccess bs (popEvent s)
  | .rxTimeout => .next (timeoutStep (popEvent s))
  | .reset => .next (resetBlock (popEvent s))

/-- With nothing scheduled the block waits (70_reset_and_hazards.md R233, 43_arbiter.md R184): it stays as it is. -/
def idleStep (s : State) : Host.Outcome State Fault Refusal := .next s

/-- Schedule a CMD write of `c` first. -/
def scheduleCommand (c : Word) (s : State) : State :=
  { s with events := .hostWrite 0x000#10 c :: s.events }

/-- Schedule the reception of `bs` first. -/
def scheduleResponse (bs : List Byte) (s : State) : State :=
  { s with events := .rx bs :: s.events }

/-- Put the request `bs` where the SEND step takes it: in TXBUF, with an XFER of it accepted, and CHANNEL's TX_OK first
in the schedule. -/
def scheduleRequest (bs : List Byte) (s : State) : State :=
  let t : Vector Byte 8 :=
    #v[bs.getD 0 0, bs.getD 1 0, bs.getD 2 0, bs.getD 3 0, bs.getD 4 0, bs.getD 5 0, bs.getD 6 0, bs.getD 7 0]
  startExchange .xfer { s with txbuf := t, txLen := 8, events := .tx .ok :: s.events }

/-- Schedule the table's word as the next instruction (log 2, log 13). -/
def scheduleTableWord (nbits w : Nat) (s : State) : State :=
  match tableForm nbits w with
  | some (.command c) => scheduleCommand c s
  | some (.response bs) => scheduleResponse bs s
  | some (.request bs) => scheduleRequest bs s
  | none => s

end Sys2Proof.Machine
end

