-- ==== Sys2Proof/Machine/Step.lean ====
section
/-! DEFINITION. One step of the machine: the schedule's next entry. -/

namespace Sys2Proof.Machine

/-- The step (00_scope.md R8, 60_exceptions.md R206): the agent the schedule names moves once. -/
def step (s : State) : Host.Outcome State Fault Refusal :=
  match s.events with
  | [] => idleStep s
  | e :: _ => runEvent e s

/-- `s` with the table's word as the instruction the next step runs. -/
def State.withFetchWord (s : State) (nbits w : Nat) : State := scheduleTableWord nbits w s

end Sys2Proof.Machine
end

