-- ==== Sys2Proof/Safety.lean ====
section
/-! DEFINITION. The terms the statements use: the invariants of a step boundary (10_state.md R43) with what they need to
be kept by every step, the STATUS of an ended command, and what a busy block waits for. -/

namespace Sys2Proof.Machine

/-- The invariants R43 lists, word for word. -/
structure BoundaryInv (s : State) : Prop where
  rxLen_le : s.rxLen.toNat ≤ 256
  txLen_eq : s.txLen = 0 ∨ s.txLen = 8
  busy_iff : s.status.busy = true ↔ s.phase ≠ .idle
  err_iff : s.status.err = true ↔ s.status.errKind ≠ .none
  attempts_le : s.status.attempts.toNat ≤ 2
  done_idle : s.status.done = true → s.status.busy = false
  recv_open : s.phase = .recv →
    s.rxLen.toNat < s.explen ∧ (s.rxLen.toNat < 5 ∨ (rxAt s 1).getLsbD 7 = false)

/-- TXBUF holds a request an encoder makes: one of the five formats, its count in range, its CRC correct (41_encoder.md
R120 to R124; 43_arbiter.md R173). -/
def requestOk (t : Vector Byte 8) : Bool :=
  match decode (.request t.toList) with
  | .instr i => wellFormed i
  | .reject _ => false

/-- The request of a running TXN_x is the one its argument registers give (20_memory.md R65, 43_arbiter.md R178). -/
def requestFitsArgs (s : State) : Prop :=
  match s.op with
  | .xfer => True
  | .txnRB => countOk s.count = true ∧ s.txbuf = buildReq s.slave 0x01#8 s.addr s.count
  | .txnRR => s.txbuf = buildReq s.slave 0x03#8 s.addr 0x0001#16
  | .txnWB => s.txbuf = buildReq s.slave 0x05#8 s.addr (coilWord s.value)
  | .txnWR => s.txbuf = buildReq s.slave 0x06#8 s.addr s.value

/-- The invariants of R43 and what they rest on, kept by every step. -/
structure StateInv (s : State) : Prop extends BoundaryInv s where
  rxbuf_wf : Memory.wf s.rxbuf
  request_ok : s.txLen = 8 → requestOk s.txbuf = true
  busy_request : s.phase ≠ .idle → s.txLen = 8 ∧ s.explen = explenOf s.txbuf
  busy_args : s.phase ≠ .idle → requestFitsArgs s
  send_attempts : s.phase = .send → s.status.attempts.toNat < 2
  recv_attempts : s.phase = .recv → 1 ≤ s.status.attempts.toNat
  busy_flags : s.phase ≠ .idle →
    s.status.done = false ∧ s.status.err = false ∧ s.status.rvalid = false ∧ s.status.excv = false ∧ s.exc = 0
  err_rvalid : s.status.err = true → s.status.rvalid = false
  kind_used : s.status.errKind ≠ .nonContiguousBundle

/-- STATUS of a command that has ended with kind k (60_exceptions.md R200, R201): BUSY 0, DONE 1, ERR as the kind. -/
def endedStatus (k : ErrKind) (rvalid excv : Bool) (attempts : BitVec 2) (ign : Bool) : Status :=
  { busy := false, done := true, err := decide (k ≠ .none), rvalid := rvalid, errKind := k, attempts := attempts,
    excv := excv, ign := ign }

/-- The state after an accepted command that ended in error k and changed nothing else (R203, R201, R207). -/
def failedWith (k : ErrKind) (s : State) : State :=
  { s with exc := 0, phase := .idle, status := endedStatus k false false 0 false }

/-- The state after an accepted decode that found an exception response with code x (42_decoder.md R142). -/
def exceptedWith (x : Byte) (s : State) : State :=
  { s with exc := x, phase := .idle, status := endedStatus .deviceException false true 0 false }

/-- The state after an accepted command that succeeded and changed nothing else (R203, R200). -/
def succeeded (s : State) : State :=
  { s with exc := 0, phase := .idle, status := endedStatus .none false false 0 false }

/-- The state after an accepted read decode that succeeded, its result aside (42_decoder.md R146, R148). -/
def succeededRead (s : State) : State :=
  { s with exc := 0, phase := .idle, status := endedStatus .none true false 0 false }

/-- How a decoder on frame rx with function code efc ends (60_exceptions.md R205, items 4 to 7), `rest` where every
shared check passes. -/
def frameLadder (efc : Byte) (rx : List Byte) (s rest : State) : State :=
  if rx.length < 4 then failedWith .protocolError s
  else if crcOk rx = false then failedWith .crcMismatch s
  else if 0x80 ≤ (byteAt rx 1).toNat then
    if (byteAt rx 1).toNat - 0x80 ≠ efc.toNat then failedWith .protocolError s
    else if rx.length ≠ 5 then failedWith .protocolError s
    else exceptedWith (byteAt rx 2) s
  else if byteAt rx 1 ≠ efc then failedWith .protocolError s
  else rest

/-- STATUS of a multi-step command that has just been accepted (R203, 43_arbiter.md R172, R178). -/
def startedStatus : Status :=
  { busy := true, done := false, err := false, rvalid := false, errKind := .none, attempts := 0, excv := false,
    ign := false }

/-- The next step starts from a clean STATUS: it is a reset (70_reset_and_hazards.md R231) or accepts a CMD write
(10_state.md R23, 60_exceptions.md R203). -/
def beginsAnew (s : State) : Prop :=
  (∃ rest, s.events = .reset :: rest) ∨
  (s.status.busy = false ∧ ∃ c rest, s.events = .hostWrite 0x000#10 c :: rest)

/-- The event a busy engine waits for (43_arbiter.md R170, R184): the answer of the write in PHASE = SEND, one byte or
the timeout in PHASE = RECV. -/
def awaited (s : State) (e : Event) : Prop :=
  match s.phase with
  | .idle => False
  | .send => e = .tx .ok ∨ e = .tx .fail
  | .recv => e = .rxTimeout ∨ ∃ b, e = .rx [b]

/-- A bound on the awaited events a running command still takes: per attempt one write, at most 255 bytes and one
timeout (R184). -/
def workLeft (s : State) : Nat :=
  match s.phase with
  | .idle => 0
  | .send => (2 - s.status.attempts.toNat) * 257
  | .recv => (2 - s.status.attempts.toNat) * 257 + (256 - s.rxLen.toNat)

/-- The 16-bit CMD codes whose command writes TXBUF (10_state.md R40): ENC_* and TXN_*. -/
def encodes (c : Word) : Prop :=
  c = 0x0010#16 ∨ c = 0x0011#16 ∨ c = 0x0012#16 ∨ c = 0x0013#16 ∨
  c = 0x0040#16 ∨ c = 0x0041#16 ∨ c = 0x0042#16 ∨ c = 0x0043#16

/-- The frame s with bit j of byte i flipped (40_crc.md R105). -/
def flipBit (s : List Byte) (i j : Nat) : List Byte := s.modify i (· ^^^ BitVec.twoPow 8 j)

/-- A frame is being received from its first byte on: PHASE = RECV, no byte yet, `n` bytes expected. -/
def awaitingFrame (s : State) (o : Op) (n : Nat) : Prop :=
  s.phase = .recv ∧ s.rxLen = 0 ∧ s.op = o ∧ s.explen = n

/-- With `bs` received after the bytes already in RXBUF the response is complete, and it is not before the last of them
(R176): 5 bytes where bit 7 of byte 1 is set, else EXPLEN. -/
def completes (s : State) (bs : List Byte) : Prop :=
  if 0x80 ≤ (byteAt (rxFrame s ++ bs) 1).toNat then (rxFrame s ++ bs).length = 5
  else (rxFrame s ++ bs).length = s.explen

/-- `t` is what the decode command `i` makes of the frame that stands in RXBUF in `u`, but that ATTEMPTS and IGN, which
only the acceptance of a command clears (60_exceptions.md R203), are kept. -/
def decodedBy (i : Instr) (u t : State) : Prop :=
  ∃ v, exec i { u with phase := .idle, status := { u.status with busy := false } } = .next v ∧
    t = { v with status := { v.status with attempts := u.status.attempts, ign := u.status.ign } }

/-- `t` is the end of the command running in `s` once the response stands in the RXBUF of `t` (43_arbiter.md R177): XFER
succeeds whatever the bytes are, TXN_x does what DEC_x does. -/
def completedAs (s t : State) : Prop :=
  let u : State := { s with rxLen := t.rxLen, rxbuf := t.rxbuf }
  match s.op with
  | .xfer =>
    t = { u with phase := .idle, status := endedStatus .none false false s.status.attempts s.status.ign }
  | .txnRB => decodedBy .decRB u t
  | .txnRR => decodedBy .decRR u t
  | .txnWB => decodedBy .decWB u t
  | .txnWR => decodedBy .decWR u t

/-- RXBUF[0..RX_LEN-1] is the response, and RXBUF beyond it reads as before (43_arbiter.md R176). -/
def receivedFrame (bs : List Byte) (s t : State) : Prop :=
  rxFrame t = bs ∧ ∀ i, bs.length ≤ i → rxAt t i = rxAt s i

end Sys2Proof.Machine
end

