-- ==== Sys2Proof/Certificates/Slice0/Obligations.lean ====
section
/-! DEFINITION. The statements for the provers, from the numbered rules of spec/. -/

open Sys2Proof Sys2Proof.Machine

/-! ### Reset, boundaries, decoding -/

/-- 70_reset_and_hazards.md R231: every row of the table, after any reset. The unspecified buffer bytes are free values,
which a HOST read returns; OP and EXPLEN are constrained by nothing. -/
def Obligations.ResetStateIsAsTabled : Prop :=
  (∃ es rs ss, State.reset = State.afterReset 0 es rs ss) ∧
  ∀ (n : Nat) (es : List Event) (rs : List Word) (ss : List (Vector Byte 8)) (s : State),
    s = State.afterReset n es rs ss →
    s.status.toWord = 0x0000#16 ∧ s.slave = 0 ∧ s.data = 0 ∧ s.exc = 0 ∧ s.addr = 0 ∧ s.count = 0 ∧ s.value = 0 ∧
    s.result = 0 ∧ s.crc = 0xFFFF#16 ∧ s.txLen = 0 ∧ s.rxLen = 0 ∧
    (∀ i < 2000, s.coil.getLsbD i = false) ∧ (∀ k < 125, readReg s (.coilw k) = 0) ∧ s.phase = .idle ∧
    (∀ i < 256, readReg s (.rxbuf i) = (Config.freeRxByte n i).setWidth 16) ∧
    (∀ i < 8, readReg s (.txbuf i) = (Config.freeTxByte n i).setWidth 16)

/-- 70_reset_and_hazards.md R230, R232: reset at any step gives the state of R231, with STATUS 0x0000; the log of sent
requests is CHANNEL's and stays; bytes that arrive next are dropped. -/
def Obligations.ResetEndsAnExchange : Prop :=
  (∀ (s : State) (rest : List Event), s.events = .reset :: rest →
    step s = .next (State.afterReset (s.era + 1) rest s.reads s.sent)) ∧
  ∀ (n : Nat) (bs : List Byte) (rest : List Event) (rs : List Word) (ss : List (Vector Byte 8)),
    (State.afterReset n rest rs ss).status.toWord = 0x0000#16 ∧
    step (State.afterReset n (.rx bs :: rest) rs ss) = .next (State.afterReset n rest rs ss)

/-- The invariants hold after reset. -/
def Obligations.InvariantHoldsAtReset : Prop := StateInv State.reset

/-- 10_state.md section 7: every step, from any state that meets the invariants, keeps them; they contain those R43
lists. -/
def Obligations.EveryStepKeepsInvariant : Prop :=
  (∀ s t : State, StateInv s → step s = .next t → StateInv t) ∧
  (∀ s : State, StateInv s →
    s.rxLen.toNat ≤ 256 ∧ (s.txLen = 0 ∨ s.txLen = 8) ∧ (s.status.busy = true ↔ s.phase ≠ .idle) ∧
    (s.status.err = true ↔ s.status.errKind ≠ .none) ∧ s.status.attempts.toNat ≤ 2 ∧
    (s.status.done = true → s.status.busy = false) ∧
    (s.phase = .recv → s.rxLen.toNat < s.explen ∧ (s.rxLen.toNat < 5 ∨ (rxAt s 1).getLsbD 7 = false)))

/-- 30_encoding.md sections 1 and 2: no bit of an encoding is dropped. -/
def Obligations.DecodeOfEncodeIsTheInstruction : Prop :=
  ∀ i : Instr, wellFormed i = true → decode (encode i) = .instr i

/-- A step runs the instruction decoded from where it stands. For a CMD write this is 30_encoding.md R84. That received
bytes run as the response row they decode to, the SEND step as the request row TXBUF decodes to, is the model's choice
(log 12); so is that several received bytes make one event (log 3). That the SEND step waits for CHANNEL's answer as its
entry of the schedule, and takes it off itself, is the model's reading (log 4). -/
def Obligations.StepRunsTheDecodedInstruction : Prop :=
  ∀ (s : State) (rest : List Event) (i : Instr),
    (∀ (a : BitVec 10) (c : Word), s.events = .hostWrite a c :: rest → a = 0x000#10 → decode (.command c) = .instr i →
      step s = exec i { s with events := rest }) ∧
    (∀ bs : List Byte, s.events = .rx bs :: rest → decode (.response bs) = .instr i →
      step s = exec i { s with events := rest }) ∧
    (∀ ans : TxAnswer, s.events = .tx ans :: rest → s.phase = .send → decode (.request s.txbuf.toList) = .instr i →
      step s = exec i s)

/-- Words written out from 30_encoding.md R81, R87, R88. -/
def Obligations.SpecWordsDecode : Prop :=
  decode (.command 0x0002#16) = .instr .crcFeed ∧
  decode (.command 0x0010#16) = .instr .encRB ∧
  decode (.command 0x0023#16) = .instr .decWR ∧
  decode (.command 0x0030#16) = .instr .xfer ∧
  decode (.command 0x0041#16) = .instr .txnRR ∧
  decode (.request [0x01#8, 0x05#8, 0x00#8, 0xAC#8, 0xFF#8, 0x00#8, 0x4C#8, 0x1B#8]) =
    .instr (.reqWriteBitOn 0x01#8 0x00AC#16 0x1B4C#16) ∧
  decode (.response [0x01#8, 0x01#8, 0x02#8, 0xCD#8, 0x06#8, 0x6D#8, 0x6E#8]) =
    .instr (.rspReadBits 0x01#8 [0xCD#8, 0x06#8] 0x6E6D#16) ∧
  decode (.response [0x01#8, 0x86#8, 0x02#8, 0xC3#8, 0xA1#8]) =
    .instr (.rspException 0x01#8 0x06#7 0x02#8 0xA1C3#16)

/-- 30_encoding.md R84: an accepted CMD write runs the prologue and then the command of its code, and any value that is
no command's code ends at once in IllegalCommand and changes nothing else. -/
def Obligations.CommandDecodeIsTotal : Prop :=
  ∀ (s : State) (a : BitVec 10) (c : Word) (rest : List Event),
    s.events = .hostWrite a c :: rest → a = 0x000#10 → s.status.busy = false →
    (∀ i, encode i = .command c →
      step s = exec i { s with events := rest } ∧
      exec i { s with events := rest } = exec i (acceptPrologue { s with events := rest })) ∧
    ((∀ i, encode i ≠ .command c) → step s = .next (failedWith .illegalCommand { s with events := rest }))

/-- Every instruction of the table answers a next state in every state, and so does every step. -/
def Obligations.NothingStopsTheMachine : Prop :=
  (∀ (i : Instr) (s : State), ∃ t, exec i s = .next t) ∧ ∀ s : State, ∃ t, step s = .next t

/-- 60_exceptions.md R200, R201, R203: the two ends of a command and the prologue of an accepted one write the named
STATUS fields, EXC and PHASE, and nothing else. -/
def Obligations.CompletionPrimitivesAreAsTabled : Prop :=
  (∀ s : State, finishOk s = { s with
    phase := .idle, status := { s.status with err := false, errKind := .none, busy := false, done := true } }) ∧
  (∀ (k : ErrKind) (s : State), raiseErr k s = { s with
    phase := .idle, status := { s.status with err := true, errKind := k, busy := false, done := true } }) ∧
  (∀ s : State, acceptPrologue s = { s with
    exc := 0x00#8,
    status := { busy := s.status.busy, done := false, err := false, errKind := .none, rvalid := false, excv := false,
                attempts := 0, ign := false } })

/-! ### HOST bus -/

/-- 20_memory.md R56: a read has no side effect on the block, STATUS included. -/
def Obligations.HostReadHasNoSideEffect : Prop :=
  ∀ (s : State) (a : BitVec 10) (rest : List Event), s.events = .hostRead a :: rest →
    step s = .next { s with events := rest, reads := s.reads ++ [readReg s (hostReg a)] }

/-- 10_state.md section 2: what a read of each word address returns; unused high bits, CMD and the reserved words of
20_memory.md section 2 read 0. -/
def Obligations.ReadMapIsAsTabled : Prop :=
  ∀ s : State,
    readReg s (hostReg 0x000) = 0 ∧ readReg s (hostReg 0x001) = s.status.toWord ∧
    readReg s (hostReg 0x002) = s.slave.setWidth 16 ∧ readReg s (hostReg 0x003) = s.addr ∧
    readReg s (hostReg 0x004) = s.count ∧ readReg s (hostReg 0x005) = s.value ∧
    readReg s (hostReg 0x006) = s.data.setWidth 16 ∧ readReg s (hostReg 0x007) = s.crc ∧
    readReg s (hostReg 0x008) = s.result ∧ readReg s (hostReg 0x009) = s.exc.setWidth 16 ∧
    readReg s (hostReg 0x00A) = s.txLen.setWidth 16 ∧ readReg s (hostReg 0x00B) = s.rxLen.setWidth 16 ∧
    (∀ i < 256, readReg s (hostReg (BitVec.ofNat 10 (0x100 + i))) = (rxAt s i).setWidth 16) ∧
    (∀ i : Fin 8, readReg s (hostReg (BitVec.ofNat 10 (0x200 + i))) = s.txbuf[i].setWidth 16) ∧
    (∀ k < 125, ∀ j < 16,
      (readReg s (hostReg (BitVec.ofNat 10 (0x300 + k)))).getLsbD j = s.coil.getLsbD (16 * k + j)) ∧
    (∀ a : BitVec 10, (0x00C ≤ a.toNat ∧ a.toNat ≤ 0x0FF) ∨ (0x208 ≤ a.toNat ∧ a.toNat ≤ 0x2FF) ∨ 0x37D ≤ a.toNat →
      readReg s (hostReg a) = 0)

/-- 10_state.md R24: the place of each field in STATUS. -/
def Obligations.StatusFieldsHaveTheirPlaces : Prop :=
  ∀ f : Status,
    f.toWord.getLsbD 0 = f.busy ∧ f.toWord.getLsbD 1 = f.done ∧ f.toWord.getLsbD 2 = f.err ∧
    f.toWord.getLsbD 3 = f.rvalid ∧ f.toWord.extractLsb' 4 4 = f.errKind.code ∧
    f.toWord.extractLsb' 8 2 = f.attempts ∧ f.toWord.getLsbD 10 = f.excv ∧ f.toWord.getLsbD 11 = f.ign ∧
    f.toWord.extractLsb' 12 4 = 0#4

/-- 60_exceptions.md R202: the 4-bit code of each kind. -/
def Obligations.ErrorKindCodesAreAsTabled : Prop :=
  ErrKind.none.code = 0 ∧ ErrKind.invalidArgument.code = 1 ∧ ErrKind.crcMismatch.code = 2 ∧
  ErrKind.unexpectedEcho.code = 3 ∧ ErrKind.deviceException.code = 4 ∧ ErrKind.noResponse.code = 5 ∧
  ErrKind.truncatedResponse.code = 6 ∧ ErrKind.protocolError.code = 7 ∧ ErrKind.channelError.code = 8 ∧
  ErrKind.illegalCommand.code = 9 ∧ ErrKind.nonContiguousBundle.code = 10

/-- 10_state.md section 4 and R41: a write of an RWP word while BUSY = 0 stores the used bits and changes nothing else;
RX_LEN takes values up to 256, and a greater one is ignored. That the 16-bit value is compared is the model's reading
(log 9). -/
def Obligations.ProtectedWriteStoresUsedBits : Prop :=
  ∀ (s : State) (a : BitVec 10) (v : Word) (rest : List Event),
    s.events = .hostWrite a v :: rest → s.status.busy = false →
    (a = 0x002#10 → step s = .next { s with events := rest, slave := v.setWidth 8 }) ∧
    (a = 0x003#10 → step s = .next { s with events := rest, addr := v }) ∧
    (a = 0x004#10 → step s = .next { s with events := rest, count := v }) ∧
    (a = 0x005#10 → step s = .next { s with events := rest, value := v }) ∧
    (a = 0x006#10 → step s = .next { s with events := rest, data := v.setWidth 8 }) ∧
    (a = 0x00B#10 → v.toNat ≤ 256 → step s = .next { s with events := rest, rxLen := v.setWidth 9 }) ∧
    (a = 0x00B#10 → 256 < v.toNat → step s = .next { s with events := rest }) ∧
    (0x100 ≤ a.toNat ∧ a.toNat ≤ 0x1FF →
      ∃ t, step s = .next t ∧ rxAt t (a.toNat - 0x100) = v.setWidth 8 ∧
        (∀ i, i ≠ a.toNat - 0x100 → rxAt t i = rxAt s i) ∧ t = { s with events := rest, rxbuf := t.rxbuf })

/-- 10_state.md R30 with R22, R23: while BUSY = 1 a write of CMD or of an RWP word does nothing but set IGN; a write of
any other word does nothing; an accepted CMD write leaves IGN clear. (A write of RX_LEN above 256 is in
LargeRxLenWriteWhileBusySetsIgn, what else may change IGN in IgnRisesByIgnoredWritesOnly.) -/
def Obligations.IgnoredWritesSetIgn : Prop :=
  ∀ (s : State) (a : BitVec 10) (v : Word) (rest : List Event), s.events = .hostWrite a v :: rest →
    (s.status.busy = true →
      a.toNat = 0x000 ∨ (0x002 ≤ a.toNat ∧ a.toNat ≤ 0x006) ∨ (a.toNat = 0x00B ∧ v.toNat ≤ 256) ∨
        (0x100 ≤ a.toNat ∧ a.toNat ≤ 0x1FF) →
      step s = .next { s with events := rest, status := { s.status with ign := true } }) ∧
    (a.toNat = 0x001 ∨ (0x007 ≤ a.toNat ∧ a.toNat ≤ 0x00A) ∨ (0x00C ≤ a.toNat ∧ a.toNat ≤ 0x0FF) ∨
        0x200 ≤ a.toNat →
      step s = .next { s with events := rest }) ∧
    (s.status.busy = false → a.toNat = 0x000 → ∃ t, step s = .next t ∧ t.status.ign = false)

/-- The model's reading (log 10), which the spec does not state: a write of RX_LEN above 256 while BUSY = 1, ignored for
both reasons, sets IGN. -/
def Obligations.LargeRxLenWriteWhileBusySetsIgn : Prop :=
  ∀ (s : State) (v : Word) (rest : List Event), s.events = .hostWrite 0x00B#10 v :: rest → s.status.busy = true →
    256 < v.toNat → step s = .next { s with events := rest, status := { s.status with ign := true } }

/-- 10_state.md R30 with R203, over every step: IGN rises only by a HOST write of CMD or of an RWP word while BUSY = 1, and
falls only by the acceptance of a command or by reset. -/
def Obligations.IgnRisesByIgnoredWritesOnly : Prop :=
  ∀ s t : State, step s = .next t →
    (t.status.ign = true → s.status.ign = false →
      s.status.busy = true ∧ ∃ a v rest, s.events = .hostWrite a v :: rest ∧
        (a.toNat = 0x000 ∨ (0x002 ≤ a.toNat ∧ a.toNat ≤ 0x006) ∨ a.toNat = 0x00B ∨
          (0x100 ≤ a.toNat ∧ a.toNat ≤ 0x1FF))) ∧
    (t.status.ign = false → s.status.ign = true → beginsAnew s)

/-! ### CRC generator -/

/-- 40_crc.md R102. -/
def Obligations.CrcInitSetsInitialValue : Prop :=
  ∀ s : State,
    (s.status.busy = false → exec .crcInit s = .next { succeeded s with crc := 0xFFFF#16 }) ∧
    (s.status.busy = true → exec .crcInit s = .next { s with status := { s.status with ign := true } })

/-- 40_crc.md R103, with the step of R101. -/
def Obligations.CrcFeedFoldsData : Prop :=
  ∀ s : State, s.status.busy = false →
    exec .crcFeed s = .next { succeeded s with crc := crcStep s.crc s.data }

/-- 40_crc.md section 2: the table form, T[i] = crc_step(0x0000, i). -/
def Obligations.CrcTableFormAgrees : Prop :=
  ∀ (c : Word) (b : Byte),
    crcStep c b = (c >>> 8) ^^^ crcStep 0x0000#16 (((c ^^^ b.setWidth 16) &&& 0x00FF#16).setWidth 8)

/-- 40_crc.md R105: flipping one bit changes the CRC of a sequence, and a frame whose CRC field was right fails its
check after any one of its bits, the CRC field's too, is flipped. (That crc16 depends on its argument alone is its
being a function.) -/
def Obligations.SingleBitFlipIsDetected : Prop :=
  (∀ (m : List Byte) (i j : Nat), i < m.length → j < 8 → crc16 (flipBit m i j) ≠ crc16 m) ∧
  (∀ (f : List Byte) (i j : Nat), 4 ≤ f.length → crcOk f = true → i < f.length → j < 8 → crcOk (flipBit f i j) = false)

/-- 40_crc.md section 2: a frame with its CRC appended, low byte first, has CRC 0. -/
def Obligations.CrcResidueIsZero : Prop :=
  ∀ m : List Byte, crc16 (m ++ [lo8 (crc16 m), hi8 (crc16 m)]) = 0x0000#16

/-- 42_decoder.md R141: the CRC check compares the field, low byte first, with the CRC of the bytes before it. -/
def Obligations.CrcCheckComparesTheField : Prop :=
  ∀ (body : List Byte) (lo hi : Byte),
    crcOk (body ++ [lo, hi]) = true ↔ (crc16 body).toNat = hi.toNat * 256 + lo.toNat

/-- 10_state.md R37: CRC changes only by CRC_INIT, CRC_FEED and reset. -/
def Obligations.CrcIsWrittenByItsCommandsOnly : Prop :=
  ∀ s t : State, step s = .next t → t.crc ≠ s.crc →
    (∃ rest, s.events = .reset :: rest ∧ t.crc = 0xFFFF#16) ∨
    (s.status.busy = false ∧ ∃ rest, s.events = .hostWrite 0x000#10 0x0001#16 :: rest ∧ t.crc = 0xFFFF#16) ∨
    (s.status.busy = false ∧ ∃ rest, s.events = .hostWrite 0x000#10 0x0002#16 :: rest ∧ t.crc = crcStep s.crc s.data)

/-- 10_state.md R37: no other instruction reads CRC: with another CRC its effect differs in CRC alone. -/
def Obligations.NothingElseReadsCrc : Prop :=
  ∀ (i : Instr) (s t : State) (x : Word), i ≠ .crcFeed → exec i s = .next t →
    ∃ y, exec i { s with crc := x } = .next { t with crc := y }

/-! ### Encoders -/

/-- 41_encoder.md R121. -/
def Obligations.EncRbBuildsReadCoils : Prop :=
  ∀ s : State, s.status.busy = false →
    (1 ≤ s.count.toNat ∧ s.count.toNat ≤ 2000 →
      ∃ t, exec .encRB s = .next { succeeded s with txbuf := t, txLen := 8 } ∧
        t.toList = [s.slave, 0x01#8, hi8 s.addr, lo8 s.addr, hi8 s.count, lo8 s.count] ++
          crcField (crc16 [s.slave, 0x01#8, hi8 s.addr, lo8 s.addr, hi8 s.count, lo8 s.count])) ∧
    (s.count.toNat < 1 ∨ 2000 < s.count.toNat →
      exec .encRB s = .next { failedWith .invalidArgument s with txLen := 0 })

/-- 41_encoder.md R122. -/
def Obligations.EncRrBuildsReadRegister : Prop :=
  ∀ s : State, s.status.busy = false →
    ∃ t, exec .encRR s = .next { succeeded s with txbuf := t, txLen := 8 } ∧
      t.toList = [s.slave, 0x03#8, hi8 s.addr, lo8 s.addr, 0x00#8, 0x01#8] ++
        crcField (crc16 [s.slave, 0x03#8, hi8 s.addr, lo8 s.addr, 0x00#8, 0x01#8])

/-- 41_encoder.md R123. -/
def Obligations.EncWbBuildsWriteCoil : Prop :=
  ∀ s : State, s.status.busy = false →
    (s.value ≠ 0 → ∃ t, exec .encWB s = .next { succeeded s with txbuf := t, txLen := 8 } ∧
      t.toList = [s.slave, 0x05#8, hi8 s.addr, lo8 s.addr, 0xFF#8, 0x00#8] ++
        crcField (crc16 [s.slave, 0x05#8, hi8 s.addr, lo8 s.addr, 0xFF#8, 0x00#8])) ∧
    (s.value = 0 → ∃ t, exec .encWB s = .next { succeeded s with txbuf := t, txLen := 8 } ∧
      t.toList = [s.slave, 0x05#8, hi8 s.addr, lo8 s.addr, 0x00#8, 0x00#8] ++
        crcField (crc16 [s.slave, 0x05#8, hi8 s.addr, lo8 s.addr, 0x00#8, 0x00#8]))

/-- 41_encoder.md R124. -/
def Obligations.EncWrBuildsWriteRegister : Prop :=
  ∀ s : State, s.status.busy = false →
    ∃ t, exec .encWR s = .next { succeeded s with txbuf := t, txLen := 8 } ∧
      t.toList = [s.slave, 0x06#8, hi8 s.addr, lo8 s.addr, hi8 s.value, lo8 s.value] ++
        crcField (crc16 [s.slave, 0x06#8, hi8 s.addr, lo8 s.addr, hi8 s.value, lo8 s.value])

/-- 10_state.md R40: TXBUF and TX_LEN change only by an accepted encode (ENC_*, TXN_*) or reset. -/
def Obligations.TxbufIsWrittenByEncodersOnly : Prop :=
  ∀ s t : State, step s = .next t → t.txbuf ≠ s.txbuf ∨ t.txLen ≠ s.txLen →
    (∃ rest, s.events = .reset :: rest) ∨
    (s.status.busy = false ∧ ∃ c rest, s.events = .hostWrite 0x000#10 c :: rest ∧ encodes c)

/-! ### Checks and decoders -/

/-- 42_decoder.md R143. -/
def Obligations.ChkCrcReportsTheCheck : Prop :=
  ∀ s : State, s.status.busy = false →
    (s.rxLen.toNat < 4 → exec .chkCrc s = .next (failedWith .protocolError s)) ∧
    (4 ≤ s.rxLen.toNat → crcOk (rxFrame s) = false → exec .chkCrc s = .next (failedWith .crcMismatch s)) ∧
    (4 ≤ s.rxLen.toNat → crcOk (rxFrame s) = true → exec .chkCrc s = .next (succeeded s))

/-- 42_decoder.md R144. -/
def Obligations.ChkExcReportsTheOption : Prop :=
  ∀ s : State, s.status.busy = false →
    (s.rxLen.toNat < 4 → exec .chkExc s = .next (failedWith .protocolError s)) ∧
    (4 ≤ s.rxLen.toNat → crcOk (rxFrame s) = false → exec .chkExc s = .next (failedWith .crcMismatch s)) ∧
    (4 ≤ s.rxLen.toNat → crcOk (rxFrame s) = true → (rxAt s 1).toNat < 0x80 →
      exec .chkExc s = .next (succeeded s)) ∧
    (4 ≤ s.rxLen.toNat → crcOk (rxFrame s) = true → 0x80 ≤ (rxAt s 1).toNat → s.rxLen ≠ 5 →
      exec .chkExc s = .next (failedWith .protocolError s)) ∧
    (4 ≤ s.rxLen.toNat → crcOk (rxFrame s) = true → 0x80 ≤ (rxAt s 1).toNat → s.rxLen = 5 →
      exec .chkExc s =
        .next { s with exc := rxAt s 2, phase := .idle, status := endedStatus .none false true 0 false })

/-- 42_decoder.md R146 with R145 and R142: DEC_RB ends in the first error of its order, with COIL unchanged, or unpacks:
coil i is bit i mod 8 of byte 3 + i div 8 for i below COUNT, and 0 from COUNT on, whatever the padding bits. -/
def Obligations.DecRbUnpacksOrFails : Prop :=
  ∀ s : State, s.status.busy = false →
    (s.count.toNat < 1 ∨ 2000 < s.count.toNat → exec .decRB s = .next (failedWith .invalidArgument s)) ∧
    (1 ≤ s.count.toNat → s.count.toNat ≤ 2000 → ∃ good : BitVec 2000,
      (s.rxLen.toNat = 5 + (s.count.toNat + 7) / 8 → ∀ i < 2000,
        good.getLsbD i = if i < s.count.toNat then (rxAt s (3 + i / 8)).getLsbD (i % 8) else false) ∧
      exec .decRB s = .next (frameLadder 0x01#8 (rxFrame s) s
        (if (rxAt s 2).toNat ≠ (s.count.toNat + 7) / 8 then failedWith .protocolError s
         else if s.rxLen.toNat ≠ 5 + (s.count.toNat + 7) / 8 then failedWith .protocolError s
         else { succeededRead s with coil := good })))

/-- 42_decoder.md R148 with R142. -/
def Obligations.DecRrExtractsTheWord : Prop :=
  ∀ s : State, s.status.busy = false →
    exec .decRR s = .next (frameLadder 0x03#8 (rxFrame s) s
      (if rxAt s 2 ≠ 0x02#8 then failedWith .protocolError s
       else if s.rxLen.toNat ≠ 7 then failedWith .protocolError s
       else { succeededRead s with result := cat16 (rxAt s 3) (rxAt s 4) }))

/-- 42_decoder.md R150 with R149 and R142. -/
def Obligations.DecWbChecksTheEcho : Prop :=
  ∀ s : State, s.status.busy = false →
    exec .decWB s = .next (frameLadder 0x05#8 (rxFrame s) s
      (if s.rxLen.toNat ≠ 8 then failedWith .protocolError s
       else if cat16 (rxAt s 2) (rxAt s 3) ≠ s.addr then failedWith .unexpectedEcho s
       else if cat16 (rxAt s 4) (rxAt s 5) ≠ (if s.value = 0 then 0x0000#16 else 0xFF00#16)
         then failedWith .unexpectedEcho s
       else succeeded s))

/-- 42_decoder.md R151 with R149 and R142. -/
def Obligations.DecWrChecksTheEcho : Prop :=
  ∀ s : State, s.status.busy = false →
    exec .decWR s = .next (frameLadder 0x06#8 (rxFrame s) s
      (if s.rxLen.toNat ≠ 8 then failedWith .protocolError s
       else if cat16 (rxAt s 2) (rxAt s 3) ≠ s.addr then failedWith .unexpectedEcho s
       else if cat16 (rxAt s 4) (rxAt s 5) ≠ s.value then failedWith .unexpectedEcho s
       else succeeded s))

/-- 42_decoder.md R152 with 10_state.md R27, R38: outside reset, RESULT and COIL change only in a step that ends DEC_RB,
DEC_RR, TXN_RB or TXN_RR with success, and RVALID rises in no other; with an error recorded RVALID is 0. -/
def Obligations.ResultsAreWrittenOnSuccessOnly : Prop :=
  ∀ s t : State, StateInv s → step s = .next t → (∀ rest, s.events ≠ .reset :: rest) →
    (t.status.err = true → t.status.rvalid = false) ∧
    (t.result ≠ s.result →
      t.status = endedStatus .none true false t.status.attempts t.status.ign ∧
      ((s.phase = .idle ∧ ∃ rest, s.events = .hostWrite 0x000#10 0x0021#16 :: rest) ∨
       (s.phase = .recv ∧ s.op = .txnRR))) ∧
    (t.coil ≠ s.coil →
      t.status = endedStatus .none true false t.status.attempts t.status.ign ∧
      ((s.phase = .idle ∧ ∃ rest, s.events = .hostWrite 0x000#10 0x0020#16 :: rest) ∨
       (s.phase = .recv ∧ s.op = .txnRB))) ∧
    (t.status.rvalid = true → s.status.rvalid = false →
      t.status = endedStatus .none true false t.status.attempts t.status.ign ∧
      ((s.phase = .idle ∧ ∃ c rest, s.events = .hostWrite 0x000#10 c :: rest ∧ (c = 0x0020#16 ∨ c = 0x0021#16)) ∨
       (s.phase = .recv ∧ (s.op = .txnRB ∨ s.op = .txnRR))))

/-! ### Exchange -/

/-- 43_arbiter.md R172, at acceptance, with R173: XFER starts the exchange of an encoded request, and without one it is
InvalidArgument. -/
def Obligations.XferStartsTheExchange : Prop :=
  ∀ s : State, s.status.busy = false →
    (s.txLen = 8 →
      ∃ n, exec .xfer s =
        .next { s with exc := 0, op := .xfer, explen := n, phase := .send, status := startedStatus } ∧
      (s.txbuf[1] = 0x01#8 → n = 5 + (s.txbuf[4].toNat * 256 + s.txbuf[5].toNat + 7) / 8) ∧
      (s.txbuf[1] = 0x03#8 → n = 7) ∧ (s.txbuf[1] = 0x05#8 → n = 8) ∧ (s.txbuf[1] = 0x06#8 → n = 8)) ∧
    (s.txLen ≠ 8 → exec .xfer s = .next (failedWith .invalidArgument s))

/-- 43_arbiter.md R178, at acceptance, with R173 and 42_decoder.md R147: TXN_x encodes and starts the exchange. -/
def Obligations.TxnEncodesAndStarts : Prop :=
  ∀ s : State, s.status.busy = false →
    (1 ≤ s.count.toNat ∧ s.count.toNat ≤ 2000 →
      exec .txnRB s = .next { s with
        exc := 0, txbuf := buildReq s.slave 0x01#8 s.addr s.count, txLen := 8, op := .txnRB,
        explen := 5 + (s.count.toNat + 7) / 8, phase := .send, status := startedStatus }) ∧
    (s.count.toNat < 1 ∨ 2000 < s.count.toNat →
      exec .txnRB s = .next { failedWith .invalidArgument s with txLen := 0 }) ∧
    exec .txnRR s = .next { s with
      exc := 0, txbuf := buildReq s.slave 0x03#8 s.addr 0x0001#16, txLen := 8, op := .txnRR, explen := 7,
      phase := .send, status := startedStatus } ∧
    exec .txnWB s = .next { s with
      exc := 0, txbuf := buildReq s.slave 0x05#8 s.addr (if s.value = 0 then 0x0000#16 else 0xFF00#16), txLen := 8,
      op := .txnWB, explen := 8, phase := .send, status := startedStatus } ∧
    exec .txnWR s = .next { s with
      exc := 0, txbuf := buildReq s.slave 0x06#8 s.addr s.value, txLen := 8, op := .txnWR, explen := 8,
      phase := .send, status := startedStatus }

/-- 43_arbiter.md R174, R175: the SEND step of each request format drops earlier bytes, counts the attempt, hands the
whole request to CHANNEL, and goes on to reception on TX_OK or ends in ChannelError on TX_FAIL. (That a request row's
meaning is this step: log 12; that it waits for the answer: log 4.) -/
def Obligations.SendStepTransmitsTheRequest : Prop :=
  ∀ (s : State) (rest : List Event) (i : Instr) (sl : Byte) (a w c : Word),
    (i = .reqReadBits sl a w c ∧ s.txbuf.toList = frameOf (sixBody sl 0x01#8 a w) c) ∨
    (i = .reqReadRegister sl a c ∧ s.txbuf.toList = frameOf (sixBody sl 0x03#8 a 0x0001#16) c) ∨
    (i = .reqWriteBitOn sl a c ∧ s.txbuf.toList = frameOf (sixBody sl 0x05#8 a 0xFF00#16) c) ∨
    (i = .reqWriteBitOff sl a c ∧ s.txbuf.toList = frameOf (sixBody sl 0x05#8 a 0x0000#16) c) ∨
    (i = .reqWriteRegister sl a w c ∧ s.txbuf.toList = frameOf (sixBody sl 0x06#8 a w) c) →
    s.phase = .send →
    (s.events = .tx .ok :: rest →
      exec i s = .next { s with
        events := rest, rxLen := 0, sent := s.sent ++ [s.txbuf], phase := .recv,
        status := { s.status with attempts := s.status.attempts + 1 } }) ∧
    (s.events = .tx .fail :: rest →
      exec i s = .next { s with
        events := rest, rxLen := 0, sent := s.sent ++ [s.txbuf], phase := .idle,
        status := endedStatus .channelError s.status.rvalid s.status.excv (s.status.attempts + 1) s.status.ign })

/-- 43_arbiter.md R176, R177: one received byte is appended, and the response is complete at EXPLEN bytes, or as an
exception response at 5; before that nothing else changes, and then the command ends as its OP says. -/
def Obligations.ReceivedByteIsAppended : Prop :=
  ∀ (s : State) (b : Byte) (rest : List Event), StateInv s → s.events = .rx [b] :: rest → s.phase = .recv →
    ∃ t, step s = .next t ∧ rxFrame t = rxFrame s ++ [b] ∧
      (∀ i, s.rxLen.toNat < i → rxAt t i = rxAt s i) ∧
      (t.phase = .recv ↔
        ¬(s.rxLen.toNat + 1 = s.explen ∨ (s.rxLen.toNat + 1 = 5 ∧ 0x80 ≤ (rxAt s 1).toNat))) ∧
      (t.phase = .recv → t = { s with events := rest, rxLen := s.rxLen + 1, rxbuf := t.rxbuf }) ∧
      (t.phase ≠ .recv → t.phase = .idle ∧ completedAs { s with events := rest } t)

/-- 43_arbiter.md R177 with R176, R180: the bytes that complete a response, the first of it or not, and whatever comes
after them in the same event, end the command in one step: `bs` is appended, what is late is dropped, and then XFER
succeeds and TXN_x does what DEC_x does with the frame received and the argument registers as they are, with no retry.
The same where the bytes are a response format's and run as that instruction. (Several bytes in one event: log 3; a
response row's meaning: log 12.) -/
def Obligations.CompletedResponseIsDecoded : Prop :=
  ∀ (s : State) (bs late : List Byte) (rest : List Event), StateInv s → s.phase = .recv →
    s.events = .rx (bs ++ late) :: rest → completes s bs →
    ∃ t, step s = .next t ∧ receivedFrame (rxFrame s ++ bs) s t ∧ completedAs { s with events := rest } t ∧
      t.phase = .idle ∧ t.status.done = true ∧ t.status.attempts = s.status.attempts ∧ t.sent = s.sent ∧
      (∀ i, encode i = .response (bs ++ late) → exec i { s with events := rest } = .next t)

/-- 42_decoder.md section 1 with 43_arbiter.md section 2: a normal response of the expected length whose CRC is right but
whose function code is not the request's ends TXN_x in ProtocolError, in however many pieces it came, with no retry.
(Several bytes in one event: log 3.) -/
def Obligations.ForeignFunctionCodeIsProtocolError : Prop :=
  ∀ (s : State) (bs late : List Byte) (rest : List Event), StateInv s → s.phase = .recv → s.op ≠ .xfer →
    s.events = .rx (bs ++ late) :: rest → completes s bs → crcOk (rxFrame s ++ bs) = true →
    (byteAt (rxFrame s ++ bs) 1).toNat < 0x80 → byteAt (rxFrame s ++ bs) 1 ≠ s.txbuf[1] →
    ∃ t, step s = .next t ∧ receivedFrame (rxFrame s ++ bs) s t ∧
      t = { s with
        events := rest, rxLen := t.rxLen, rxbuf := t.rxbuf, phase := .idle,
        status := endedStatus .protocolError false false s.status.attempts s.status.ign }

/-- The model's choice (log 3): several bytes in one event are the same bytes one event after the other; no byte at all
changes nothing. -/
def Obligations.BurstIsItsBytes : Prop :=
  ∀ (s : State) (rest : List Event),
    (∀ b bs, s.events = .rx (b :: bs) :: rest →
      ∃ u, step { s with events := .rx [b] :: .rx bs :: rest } = .next u ∧ u.events = .rx bs :: rest ∧
        step s = step u) ∧
    (s.events = .rx [] :: rest → step s = .next { s with events := rest })

/-- 43_arbiter.md R180: outside PHASE = RECV received bytes change no state, and no timeout is delivered; that a
scheduled one is dropped is the model's choice (log 5). -/
def Obligations.UnawaitedEventsAreDropped : Prop :=
  ∀ (s : State) (rest : List Event), s.phase ≠ .recv →
    (∀ bs, s.events = .rx bs :: rest → step s = .next { s with events := rest }) ∧
    (s.events = .rxTimeout :: rest → step s = .next { s with events := rest })

/-- 43_arbiter.md R179: silence is NoResponse or TruncatedResponse; the first attempt is retried, the second reports its
kind. -/
def Obligations.TimeoutRetriesOnce : Prop :=
  ∀ (s : State) (rest : List Event), s.events = .rxTimeout :: rest → s.phase = .recv →
    (s.status.attempts.toNat < 2 → step s = .next { s with events := rest, phase := .send }) ∧
    (2 ≤ s.status.attempts.toNat → s.rxLen = 0 → step s = .next { s with
      events := rest, phase := .idle,
      status := endedStatus .noResponse s.status.rvalid s.status.excv s.status.attempts s.status.ign }) ∧
    (2 ≤ s.status.attempts.toNat → s.rxLen ≠ 0 → step s = .next { s with
      events := rest, phase := .idle,
      status := endedStatus .truncatedResponse s.status.rvalid s.status.excv s.status.attempts s.status.ign })

/-- 43_arbiter.md R176, R177 with 42_decoder.md R145, R146: a read-coils response to TXN_RB, received whole, writes the
coils; the registers a response does not write stay. (Choices of the model: log 12,
log 3.) -/
def Obligations.TxnRbReceivesCoils : Prop :=
  ∀ (s : State) (sl : Byte) (d : List Byte) (c : Word), StateInv s → awaitingFrame s .txnRB (5 + d.length) →
    d.length = (s.count.toNat + 7) / 8 → crc16 (readBitsBody sl d) = c →
    ∃ t, exec (.rspReadBits sl d c) s = .next t ∧ receivedFrame (frameOf (readBitsBody sl d) c) s t ∧
      (∀ i < 2000, t.coil.getLsbD i = if i < s.count.toNat then (d.getD (i / 8) 0).getLsbD (i % 8) else false) ∧
      t = { s with
        rxLen := t.rxLen, rxbuf := t.rxbuf, coil := t.coil, phase := .idle,
        status := endedStatus .none true false s.status.attempts s.status.ign }

/-- 43_arbiter.md R176, R177 with 42_decoder.md R148: a read-register response to TXN_RR, received whole, writes the
word to RESULT. (Choices of the model: log 12, log 3.) -/
def Obligations.TxnRrReceivesTheWord : Prop :=
  ∀ (s : State) (sl : Byte) (w c : Word), StateInv s → awaitingFrame s .txnRR 7 → crc16 (readRegisterBody sl w) = c →
    ∃ t, exec (.rspReadRegister sl w c) s = .next t ∧ receivedFrame (frameOf (readRegisterBody sl w) c) s t ∧
      t = { s with
        rxLen := t.rxLen, rxbuf := t.rxbuf, result := w, phase := .idle,
        status := endedStatus .none true false s.status.attempts s.status.ign }

/-- 43_arbiter.md R176, R177 with 42_decoder.md R149 to R151: an echo received whole ends TXN_WB and TXN_WR, in success
where Address and value are those sent, else in UnexpectedEcho, with no retry. (Choices of the model: log 12, log 3.) -/
def Obligations.TxnWriteChecksTheEcho : Prop :=
  ∀ (s : State) (sl : Byte) (a e c : Word), StateInv s →
    (awaitingFrame s .txnWB 8 → crc16 (sixBody sl 0x05#8 a e) = c →
      ∃ t, exec (.rspWriteBitEcho sl a e c) s = .next t ∧ receivedFrame (frameOf (sixBody sl 0x05#8 a e) c) s t ∧
        t = { s with
          rxLen := t.rxLen, rxbuf := t.rxbuf, phase := .idle,
          status := endedStatus
            (if a = s.addr ∧ e = (if s.value = 0 then 0x0000#16 else 0xFF00#16) then .none else .unexpectedEcho)
            false false s.status.attempts s.status.ign }) ∧
    (awaitingFrame s .txnWR 8 → crc16 (sixBody sl 0x06#8 a e) = c →
      ∃ t, exec (.rspWriteRegisterEcho sl a e c) s = .next t ∧
        receivedFrame (frameOf (sixBody sl 0x06#8 a e) c) s t ∧
        t = { s with
          rxLen := t.rxLen, rxbuf := t.rxbuf, phase := .idle,
          status := endedStatus (if a = s.addr ∧ e = s.value then .none else .unexpectedEcho)
            false false s.status.attempts s.status.ign })

/-- 43_arbiter.md R176, R177 with 42_decoder.md R142: an exception response ends reception at 5 bytes; a TXN_x whose
function code it names ends in DeviceException with the code in EXC, another in ProtocolError, and XFER succeeds.
(Choices of the model: log 12, log 3.) -/
def Obligations.ExceptionResponseEndsTheExchange : Prop :=
  ∀ (s : State) (sl : Byte) (f : BitVec 7) (x : Byte) (c : Word), StateInv s → s.phase = .recv → s.rxLen = 0 →
    crc16 (exceptionBody sl f x) = c →
    ∃ t, exec (.rspException sl f x c) s = .next t ∧ receivedFrame (frameOf (exceptionBody sl f x) c) s t ∧
      t = { s with rxLen := t.rxLen, rxbuf := t.rxbuf, phase := .idle, exc := t.exc, status := t.status } ∧
      (s.op = .xfer → t.exc = s.exc ∧ t.status = endedStatus .none false false s.status.attempts s.status.ign) ∧
      (s.op ≠ .xfer → f.setWidth 8 = s.txbuf[1] →
        t.exc = x ∧ t.status = endedStatus .deviceException false true s.status.attempts s.status.ign) ∧
      (s.op ≠ .xfer → f.setWidth 8 ≠ s.txbuf[1] →
        t.exc = s.exc ∧ t.status = endedStatus .protocolError false false s.status.attempts s.status.ign)

/-- 43_arbiter.md R176, R177, R179: under TXN_x a received response whose CRC field is wrong ends the command in
CrcMismatch, on the first attempt too: no retry. (Choices of the model: log 12, log 3.) -/
def Obligations.BadCrcEndsTheExchange : Prop :=
  ∀ (s : State) (i : Instr) (body : List Byte) (sl : Byte) (d : List Byte) (f : BitVec 7) (x : Byte) (a w c : Word),
    StateInv s → s.phase = .recv → s.rxLen = 0 → s.op ≠ .xfer → crc16 body ≠ c →
    (i = .rspReadBits sl d c ∧ body = readBitsBody sl d ∧ s.explen = body.length + 2) ∨
    (i = .rspReadRegister sl w c ∧ body = readRegisterBody sl w ∧ s.explen = body.length + 2) ∨
    (i = .rspWriteBitEcho sl a w c ∧ body = sixBody sl 0x05#8 a w ∧ s.explen = body.length + 2) ∨
    (i = .rspWriteRegisterEcho sl a w c ∧ body = sixBody sl 0x06#8 a w ∧ s.explen = body.length + 2) ∨
    (i = .rspException sl f x c ∧ body = exceptionBody sl f x) →
    ∃ t, exec i s = .next t ∧ receivedFrame (frameOf body c) s t ∧
      t = { s with
        rxLen := t.rxLen, rxbuf := t.rxbuf, phase := .idle,
        status := endedStatus .crcMismatch false false s.status.attempts s.status.ign }

/-- 43_arbiter.md R176, R177: under XFER a response of the expected length, or an exception response, whatever its CRC, is
left in RXBUF, and the command succeeds. (Choices of the model: log 12, log 3.) -/
def Obligations.XferKeepsTheResponse : Prop :=
  ∀ (s : State) (i : Instr) (bs : List Byte) (sl : Byte) (d : List Byte) (f : BitVec 7) (x : Byte) (a w c : Word),
    StateInv s → s.phase = .recv → s.rxLen = 0 → s.op = .xfer →
    (i = .rspReadBits sl d c ∧ bs = frameOf (readBitsBody sl d) c ∧ s.explen = bs.length) ∨
    (i = .rspReadRegister sl w c ∧ bs = frameOf (readRegisterBody sl w) c ∧ s.explen = bs.length) ∨
    (i = .rspWriteBitEcho sl a w c ∧ bs = frameOf (sixBody sl 0x05#8 a w) c ∧ s.explen = bs.length) ∨
    (i = .rspWriteRegisterEcho sl a w c ∧ bs = frameOf (sixBody sl 0x06#8 a w) c ∧ s.explen = bs.length) ∨
    (i = .rspException sl f x c ∧ bs = frameOf (exceptionBody sl f x) c) →
    ∃ t, exec i s = .next t ∧ receivedFrame bs s t ∧
      t = { s with
        rxLen := t.rxLen, rxbuf := t.rxbuf, phase := .idle,
        status := endedStatus .none false false s.status.attempts s.status.ign }

/-- 43_arbiter.md R183: a running command ends only by reset, by TX_FAIL in PHASE = SEND, by a byte that completes the
response, or by a timeout of the second attempt. -/
def Obligations.NothingButResetAborts : Prop :=
  ∀ s t : State, StateInv s → s.status.busy = true → step s = .next t → t.status.busy = false →
    ∃ rest, s.events = .reset :: rest ∨
      (s.phase = .send ∧ s.events = .tx .fail :: rest) ∨
      (s.phase = .recv ∧ (∃ bs, s.events = .rx bs :: rest ∧
        (t.rxLen.toNat = s.explen ∨ (t.rxLen.toNat = 5 ∧ 0x80 ≤ (rxAt t 1).toNat)))) ∨
      (s.phase = .recv ∧ s.events = .rxTimeout :: rest ∧ s.status.attempts.toNat = 2)

/-- 20_memory.md section 5: while BUSY = 1 no step but reset changes an argument register, the request or its length, or
the running command. -/
def Obligations.ArgumentsAreStableWhileBusy : Prop :=
  ∀ s t : State, s.status.busy = true → step s = .next t → (∀ rest, s.events ≠ .reset :: rest) →
    t.slave = s.slave ∧ t.addr = s.addr ∧ t.count = s.count ∧ t.value = s.value ∧ t.data = s.data ∧
    t.txbuf = s.txbuf ∧ t.txLen = s.txLen ∧ t.op = s.op ∧ t.explen = s.explen

/-- 10_state.md R41: RXBUF and RX_LEN change only by a HOST write of them while BUSY = 0, by the arbiter (a SEND step,
received bytes in PHASE = RECV), or by reset. -/
def Obligations.RxbufIsWrittenByHostAndArbiterOnly : Prop :=
  ∀ s t : State, step s = .next t → (t.rxLen ≠ s.rxLen ∨ ∃ i, rxAt t i ≠ rxAt s i) →
    (∃ rest, s.events = .reset :: rest) ∨
    (s.status.busy = false ∧ ∃ a v rest, s.events = .hostWrite a v :: rest ∧
      (a = 0x00B#10 ∨ (0x100 ≤ a.toNat ∧ a.toNat ≤ 0x1FF))) ∨
    (s.phase = .send ∧ ∃ ans rest, s.events = .tx ans :: rest) ∨
    (s.phase = .recv ∧ ∃ bs rest, s.events = .rx bs :: rest)

/-- 60_exceptions.md section 4: a step by which a command ends in an error leaves RESULT, COIL, CRC and the argument
registers as they were; TXBUF changes only where a TXN_x was accepted, which does not end in that step. -/
def Obligations.ErrorsArePrecise : Prop :=
  ∀ s t : State, StateInv s → step s = .next t → s.status.done = false ∨ (∃ c rest, s.events = .hostWrite 0x000#10 c :: rest) →
    t.status.done = true → t.status.err = true →
    t.result = s.result ∧ t.coil = s.coil ∧ t.crc = s.crc ∧ t.slave = s.slave ∧ t.addr = s.addr ∧
    t.count = s.count ∧ t.value = s.value ∧ t.data = s.data ∧ t.txbuf = s.txbuf

/-- 43_arbiter.md section 3: from the acceptance of a multi-step command on, along every run that neither resets the block
nor has it accept a further command (a CMD write it ignores while BUSY = 1 is no such), the requests handed to CHANNEL are
at most 2 and all are the 8 bytes of TXBUF. -/
def Obligations.AtMostTwoIdenticalRequests : Prop :=
  ∀ (k : Nat) (s t : State), StateInv s → s.phase = .send → s.status.attempts = 0 →
    (∀ j < k, ∀ u, Host.Core.run Sys2Proof.core j s = .next u → ¬ beginsAnew u) →
    Host.Core.run Sys2Proof.core k s = .next t →
    ∃ n, n ≤ 2 ∧ n = t.status.attempts.toNat ∧ t.sent = s.sent ++ List.replicate n s.txbuf

/-- 10_state.md R28 with 43_arbiter.md R174 and 60_exceptions.md R203, for every step: ATTEMPTS grows by one exactly when
the request in TXBUF is handed to CHANNEL, which is the SEND step; no other step hands anything over, and it keeps ATTEMPTS
or clears it, which a reset and the acceptance of a command do. -/
def Obligations.AttemptsCountTransmissions : Prop :=
  ∀ s t : State, StateInv s → step s = .next t →
    (t.sent = s.sent ++ [s.txbuf] ↔ t.status.attempts.toNat = s.status.attempts.toNat + 1) ∧
    (∀ ans rest, s.phase = .send → s.events = .tx ans :: rest → t.sent = s.sent ++ [s.txbuf]) ∧
    ((s.phase ≠ .send ∨ ∀ ans rest, s.events ≠ .tx ans :: rest) →
      t.sent = s.sent ∧ (t.status.attempts = s.status.attempts ∨ (t.status.attempts = 0 ∧ beginsAnew s))) ∧
    (beginsAnew s → t.status.attempts = 0)

/-- 43_arbiter.md R184: each event a busy engine waits for brings the command's end nearer, by a bound of 2 writes, 2
times 255 bytes and 2 timeouts; the bound is 0 exactly when no command runs. -/
def Obligations.AwaitedEventsEndTheCommand : Prop :=
  (∀ s : State, StateInv s → workLeft s ≤ 514 ∧ (workLeft s = 0 ↔ s.status.busy = false)) ∧
  (∀ (s t : State) (e : Event) (rest : List Event), StateInv s → s.events = e :: rest → awaited s e → step s = .next t →
    workLeft t < workLeft s)
end

