-- ==== Sys2Proof/Laws/Bytes.lean ====
section
/-! SUPPORT. Splitting a word into bytes and back, and what a decoded form says about its bytes. -/

namespace Sys2Proof

open Machine

namespace Machine

@[simp] theorem cat16_hi8_lo8 (w : Word) : cat16 (hi8 w) (lo8 w) = w := by
  ext i hi
  by_cases h : i < 8
  · simp [cat16, hi8, lo8, BitVec.getElem_extractLsb', h, BitVec.getLsbD_eq_getElem hi]
  · have : 8 + (i - 8) = i := by omega
    simp [cat16, hi8, lo8, h, this, hi]
    omega

@[simp] theorem hi8_cat16 (h l : Byte) : hi8 (cat16 h l) = h := by
  ext i hi
  have h1 : 8 + i < 16 := by omega
  simp [cat16, hi8, BitVec.getLsbD_eq_getElem hi, BitVec.getLsbD_of_ge, h1]

@[simp] theorem lo8_cat16 (h l : Byte) : lo8 (cat16 h l) = l := by
  ext i hi
  simp [cat16, lo8, hi]
  omega

theorem exception_fc {fc : Byte} (h : fc.getLsbD 7 = true) :
    0x80#8 ||| (fc.extractLsb' 0 7).setWidth 8 = fc := by
  have : ∀ b : Byte, b.getLsbD 7 = true → 0x80#8 ||| (b.extractLsb' 0 7).setWidth 8 = b := by decide
  exact this fc h

end Machine

/-- A command code decodes to the command it encodes. -/
theorem encode_of_decodeCommand {c : Word} {i : Instr} (h : decodeCommand c = .instr i) : encode i = .command c := by
  unfold decodeCommand at h
  split at h
  · rename_i r hr
    injection h with h
    subst h
    have hc : r.1 = c := by simpa using List.find?_some hr
    have hm : ∀ r ∈ commandTable, encode r.2 = .command r.1 := by decide
    rw [hm r (List.mem_of_find?_eq_some hr), hc]
  · cases h

/-- The frame of a request or an echo, byte by byte. -/
theorem frameOf_sixBody (sl fc a1 a0 w1 w0 c0 c1 : Byte) :
    frameOf (sixBody sl fc (cat16 a1 a0) (cat16 w1 w0)) (cat16 c1 c0) = [sl, fc, a1, a0, w1, w0, c0, c1] := by
  simp [frameOf, sixBody, crcField]

/-- A request decodes to an instruction whose bytes it is. -/
theorem encode_of_decodeRequest {bs : List Byte} {i : Instr} (h : decodeRequest bs = .instr i) :
    encode i = .request bs := by
  unfold decodeRequest at h
  split at h
  · rename_i sl fc a1 a0 w1 w0 c0 c1
    rw [← frameOf_sixBody]
    unfold decodeRequestFields at h
    split_ifs at h with h1 h3 hw h5 hon hoff h6 <;> cases h
    · rw [h1, encode]
    · rw [h3, hw, encode]
    · rw [h5, hon, encode]
    · rw [h5, hoff, encode]
    · rw [h6, encode]
  · cases h

theorem encode_of_decodeEcho {mk : Word → Word → Word → Instr} {sl fc : Byte}
    (hmk : ∀ a e c, encode (mk a e c) = .response (frameOf (sixBody sl fc a e) c)) {rest : List Byte} {i : Instr}
    (h : decodeEcho mk rest = .instr i) : encode i = .response (sl :: fc :: rest) := by
  unfold decodeEcho at h
  split at h
  · cases h
    rw [hmk, frameOf_sixBody]
  · cases h

theorem encode_of_decodeReadRegister {sl : Byte} {rest : List Byte} {i : Instr}
    (h : decodeReadRegister sl rest = .instr i) : encode i = .response (sl :: 0x03#8 :: rest) := by
  unfold decodeReadRegister at h
  split at h
  · split_ifs at h with hn
    cases h
    simp [encode, frameOf, readRegisterBody, crcField, hn]
  · cases h

theorem encode_of_decodeException {sl fc : Byte} (hfc : fc.getLsbD 7 = true) {rest : List Byte} {i : Instr}
    (h : decodeException sl fc rest = .instr i) : encode i = .response (sl :: fc :: rest) := by
  unfold decodeException at h
  split at h
  · cases h
    simp only [encode, frameOf, exceptionBody, crcField, exception_fc hfc]
    simp
  · cases h

theorem encode_of_decodeReadBits {sl : Byte} {rest : List Byte} {i : Instr}
    (h : decodeReadBits sl rest = .instr i) : encode i = .response (sl :: 0x01#8 :: rest) := by
  unfold decodeReadBits at h
  split at h
  · rename_i n more
    split_ifs at h with hl
    cases h
    have hn : (more.take n.toNat).length = n.toNat := by simp; omega
    have hd : more = more.take n.toNat ++ [more.getD n.toNat 0, more.getD (n.toNat + 1) 0] := by
      have h2 : (more.drop n.toNat).length = 2 := by simp; omega
      obtain ⟨x, y, hxy⟩ := List.length_eq_two.1 h2
      have hx : more.getD n.toNat 0 = x := by
        rw [← List.take_append_drop n.toNat more, hxy]
        simp [List.getD_eq_getElem?_getD, hl]
      have hy : more.getD (n.toNat + 1) 0 = y := by
        rw [← List.take_append_drop n.toNat more, hxy]
        simp [List.getD_eq_getElem?_getD, hl]
      rw [hx, hy, ← hxy, List.take_append_drop]
    simp only [encode, frameOf, readBitsBody, crcField, hn, BitVec.ofNat_toNat, BitVec.setWidth_eq, lo8_cat16,
      hi8_cat16, List.cons_append]
    rw [← hd]
  · cases h

/-- A response decodes to an instruction whose bytes it is. -/
theorem encode_of_decodeResponse {bs : List Byte} {i : Instr} (h : decodeResponse bs = .instr i) :
    encode i = .response bs := by
  unfold decodeResponse at h
  split at h
  · rename_i sl fc rest
    split_ifs at h with h7 h1 h3 h5 h6
    · exact encode_of_decodeException h7 h
    · exact h1 ▸ encode_of_decodeReadBits h
    · exact h3 ▸ encode_of_decodeReadRegister h
    · exact h5 ▸ encode_of_decodeEcho (fun _ _ _ => rfl) h
    · exact h6 ▸ encode_of_decodeEcho (fun _ _ _ => rfl) h
  · cases h

end Sys2Proof
end

