-- ==== Sys2Proof/Laws/Crc.lean ====
section
/-! SUPPORT. `crc_step` is linear over XOR, and one step loses no information (40_crc.md R101). -/

namespace Sys2Proof.Machine

theorem crcBit_xor (c d : Word) : crcBit (c ^^^ d) = crcBit c ^^^ crcBit d := by
  unfold crcBit
  rw [BitVec.getLsbD_xor, BitVec.ushiftRight_xor_distrib]
  cases c.getLsbD 0 <;> cases d.getLsbD 0 <;> simp [BitVec.xor_assoc]
  rw [BitVec.xor_comm]

/-- Bit 15 of 0xA001 tells whether the bit shifted out was 1, so a turn can be undone. -/
theorem crcBit_eq_zero {c : Word} (h : crcBit c = 0) : c = 0 := by
  unfold crcBit at h
  split at h <;> rename_i h0
  · have h15 := congrArg (fun x : Word => x.getLsbD 15) h
    simp at h15
  · apply BitVec.eq_of_getLsbD_eq
    intro i hi
    cases i with
    | zero => simpa using h0
    | succ i =>
      have hb := congrArg (fun x : Word => x.getLsbD i) h
      simpa [BitVec.getLsbD_ushiftRight, Nat.add_comm] using hb

theorem crcBits_xor (n : Nat) (c d : Word) : crcBits n (c ^^^ d) = crcBits n c ^^^ crcBits n d := by
  induction n generalizing c d with
  | zero => rfl
  | succ n ih => rw [crcBits, crcBit_xor, ih]; rfl

theorem crcBits_eq_zero {n : Nat} {c : Word} (h : crcBits n c = 0) : c = 0 := by
  induction n generalizing c with
  | zero => exact h
  | succ n ih => exact crcBit_eq_zero (ih h)

theorem crcStep_xor (c d : Word) (a b : Byte) : crcStep (c ^^^ d) (a ^^^ b) = crcStep c a ^^^ crcStep d b := by
  unfold crcStep
  rw [← crcBits_xor, BitVec.setWidth_xor]
  congr 1
  ac_rfl

/-- One step maps only the matching byte to 0. -/
theorem crcStep_eq_zero {c : Word} {b : Byte} (h : crcStep c b = 0) : c = b.setWidth 16 := by
  have h' := crcBits_eq_zero (show crcBits 8 (c ^^^ b.setWidth 16) = 0 from h)
  exact BitVec.xor_eq_zero_iff.1 h'

theorem crc16_append (a b : List Byte) : crc16 (a ++ b) = b.foldl crcStep (crc16 a) := List.foldl_append ..

end Sys2Proof.Machine
end

