-- ==== Sys2Proof/Laws/State.lean ====
section
/-! SUPPORT. One lemma per field per update: what each shared operation leaves in each field of State. -/

namespace Sys2Proof.Machine

/-! ### finishOk -/

@[simp] theorem finishOk_status (s : State) : (finishOk s).status = s.status.finishOk := rfl
@[simp] theorem finishOk_slave (s : State) : (finishOk s).slave = s.slave := rfl
@[simp] theorem finishOk_addr (s : State) : (finishOk s).addr = s.addr := rfl
@[simp] theorem finishOk_count (s : State) : (finishOk s).count = s.count := rfl
@[simp] theorem finishOk_value (s : State) : (finishOk s).value = s.value := rfl
@[simp] theorem finishOk_data (s : State) : (finishOk s).data = s.data := rfl
@[simp] theorem finishOk_crc (s : State) : (finishOk s).crc = s.crc := rfl
@[simp] theorem finishOk_result (s : State) : (finishOk s).result = s.result := rfl
@[simp] theorem finishOk_exc (s : State) : (finishOk s).exc = s.exc := rfl
@[simp] theorem finishOk_txLen (s : State) : (finishOk s).txLen = s.txLen := rfl
@[simp] theorem finishOk_rxLen (s : State) : (finishOk s).rxLen = s.rxLen := rfl
@[simp] theorem finishOk_rxbuf (s : State) : (finishOk s).rxbuf = s.rxbuf := rfl
@[simp] theorem finishOk_txbuf (s : State) : (finishOk s).txbuf = s.txbuf := rfl
@[simp] theorem finishOk_coil (s : State) : (finishOk s).coil = s.coil := rfl
@[simp] theorem finishOk_phase (s : State) : (finishOk s).phase = .idle := rfl
@[simp] theorem finishOk_op (s : State) : (finishOk s).op = s.op := rfl
@[simp] theorem finishOk_explen (s : State) : (finishOk s).explen = s.explen := rfl
@[simp] theorem finishOk_era (s : State) : (finishOk s).era = s.era := rfl
@[simp] theorem finishOk_events (s : State) : (finishOk s).events = s.events := rfl
@[simp] theorem finishOk_reads (s : State) : (finishOk s).reads = s.reads := rfl
@[simp] theorem finishOk_sent (s : State) : (finishOk s).sent = s.sent := rfl

/-! ### raiseErr -/

@[simp] theorem raiseErr_status (k : ErrKind) (s : State) : (raiseErr k s).status = s.status.raise k := rfl
@[simp] theorem raiseErr_slave (k : ErrKind) (s : State) : (raiseErr k s).slave = s.slave := rfl
@[simp] theorem raiseErr_addr (k : ErrKind) (s : State) : (raiseErr k s).addr = s.addr := rfl
@[simp] theorem raiseErr_count (k : ErrKind) (s : State) : (raiseErr k s).count = s.count := rfl
@[simp] theorem raiseErr_value (k : ErrKind) (s : State) : (raiseErr k s).value = s.value := rfl
@[simp] theorem raiseErr_data (k : ErrKind) (s : State) : (raiseErr k s).data = s.data := rfl
@[simp] theorem raiseErr_crc (k : ErrKind) (s : State) : (raiseErr k s).crc = s.crc := rfl
@[simp] theorem raiseErr_result (k : ErrKind) (s : State) : (raiseErr k s).result = s.result := rfl
@[simp] theorem raiseErr_exc (k : ErrKind) (s : State) : (raiseErr k s).exc = s.exc := rfl
@[simp] theorem raiseErr_txLen (k : ErrKind) (s : State) : (raiseErr k s).txLen = s.txLen := rfl
@[simp] theorem raiseErr_rxLen (k : ErrKind) (s : State) : (raiseErr k s).rxLen = s.rxLen := rfl
@[simp] theorem raiseErr_rxbuf (k : ErrKind) (s : State) : (raiseErr k s).rxbuf = s.rxbuf := rfl
@[simp] theorem raiseErr_txbuf (k : ErrKind) (s : State) : (raiseErr k s).txbuf = s.txbuf := rfl
@[simp] theorem raiseErr_coil (k : ErrKind) (s : State) : (raiseErr k s).coil = s.coil := rfl
@[simp] theorem raiseErr_phase (k : ErrKind) (s : State) : (raiseErr k s).phase = .idle := rfl
@[simp] theorem raiseErr_op (k : ErrKind) (s : State) : (raiseErr k s).op = s.op := rfl
@[simp] theorem raiseErr_explen (k : ErrKind) (s : State) : (raiseErr k s).explen = s.explen := rfl
@[simp] theorem raiseErr_era (k : ErrKind) (s : State) : (raiseErr k s).era = s.era := rfl
@[simp] theorem raiseErr_events (k : ErrKind) (s : State) : (raiseErr k s).events = s.events := rfl
@[simp] theorem raiseErr_reads (k : ErrKind) (s : State) : (raiseErr k s).reads = s.reads := rfl
@[simp] theorem raiseErr_sent (k : ErrKind) (s : State) : (raiseErr k s).sent = s.sent := rfl

/-! ### acceptPrologue -/

@[simp] theorem acceptPrologue_status (s : State) : (acceptPrologue s).status = s.status.accept := rfl
@[simp] theorem acceptPrologue_slave (s : State) : (acceptPrologue s).slave = s.slave := rfl
@[simp] theorem acceptPrologue_addr (s : State) : (acceptPrologue s).addr = s.addr := rfl
@[simp] theorem acceptPrologue_count (s : State) : (acceptPrologue s).count = s.count := rfl
@[simp] theorem acceptPrologue_value (s : State) : (acceptPrologue s).value = s.value := rfl
@[simp] theorem acceptPrologue_data (s : State) : (acceptPrologue s).data = s.data := rfl
@[simp] theorem acceptPrologue_crc (s : State) : (acceptPrologue s).crc = s.crc := rfl
@[simp] theorem acceptPrologue_result (s : State) : (acceptPrologue s).result = s.result := rfl
@[simp] theorem acceptPrologue_exc (s : State) : (acceptPrologue s).exc = 0 := rfl
@[simp] theorem acceptPrologue_txLen (s : State) : (acceptPrologue s).txLen = s.txLen := rfl
@[simp] theorem acceptPrologue_rxLen (s : State) : (acceptPrologue s).rxLen = s.rxLen := rfl
@[simp] theorem acceptPrologue_rxbuf (s : State) : (acceptPrologue s).rxbuf = s.rxbuf := rfl
@[simp] theorem acceptPrologue_txbuf (s : State) : (acceptPrologue s).txbuf = s.txbuf := rfl
@[simp] theorem acceptPrologue_coil (s : State) : (acceptPrologue s).coil = s.coil := rfl
@[simp] theorem acceptPrologue_phase (s : State) : (acceptPrologue s).phase = s.phase := rfl
@[simp] theorem acceptPrologue_op (s : State) : (acceptPrologue s).op = s.op := rfl
@[simp] theorem acceptPrologue_explen (s : State) : (acceptPrologue s).explen = s.explen := rfl
@[simp] theorem acceptPrologue_era (s : State) : (acceptPrologue s).era = s.era := rfl
@[simp] theorem acceptPrologue_events (s : State) : (acceptPrologue s).events = s.events := rfl
@[simp] theorem acceptPrologue_reads (s : State) : (acceptPrologue s).reads = s.reads := rfl
@[simp] theorem acceptPrologue_sent (s : State) : (acceptPrologue s).sent = s.sent := rfl

/-! ### setIgn -/

@[simp] theorem setIgn_status (s : State) : (setIgn s).status = { s.status with ign := true } := rfl
@[simp] theorem setIgn_slave (s : State) : (setIgn s).slave = s.slave := rfl
@[simp] theorem setIgn_addr (s : State) : (setIgn s).addr = s.addr := rfl
@[simp] theorem setIgn_count (s : State) : (setIgn s).count = s.count := rfl
@[simp] theorem setIgn_value (s : State) : (setIgn s).value = s.value := rfl
@[simp] theorem setIgn_data (s : State) : (setIgn s).data = s.data := rfl
@[simp] theorem setIgn_crc (s : State) : (setIgn s).crc = s.crc := rfl
@[simp] theorem setIgn_result (s : State) : (setIgn s).result = s.result := rfl
@[simp] theorem setIgn_exc (s : State) : (setIgn s).exc = s.exc := rfl
@[simp] theorem setIgn_txLen (s : State) : (setIgn s).txLen = s.txLen := rfl
@[simp] theorem setIgn_rxLen (s : State) : (setIgn s).rxLen = s.rxLen := rfl
@[simp] theorem setIgn_rxbuf (s : State) : (setIgn s).rxbuf = s.rxbuf := rfl
@[simp] theorem setIgn_txbuf (s : State) : (setIgn s).txbuf = s.txbuf := rfl
@[simp] theorem setIgn_coil (s : State) : (setIgn s).coil = s.coil := rfl
@[simp] theorem setIgn_phase (s : State) : (setIgn s).phase = s.phase := rfl
@[simp] theorem setIgn_op (s : State) : (setIgn s).op = s.op := rfl
@[simp] theorem setIgn_explen (s : State) : (setIgn s).explen = s.explen := rfl
@[simp] theorem setIgn_era (s : State) : (setIgn s).era = s.era := rfl
@[simp] theorem setIgn_events (s : State) : (setIgn s).events = s.events := rfl
@[simp] theorem setIgn_reads (s : State) : (setIgn s).reads = s.reads := rfl
@[simp] theorem setIgn_sent (s : State) : (setIgn s).sent = s.sent := rfl

/-! ### recordExc -/

@[simp] theorem recordExc_status (x : Byte) (s : State) : (recordExc x s).status = { s.status with excv := true } := rfl
@[simp] theorem recordExc_slave (x : Byte) (s : State) : (recordExc x s).slave = s.slave := rfl
@[simp] theorem recordExc_addr (x : Byte) (s : State) : (recordExc x s).addr = s.addr := rfl
@[simp] theorem recordExc_count (x : Byte) (s : State) : (recordExc x s).count = s.count := rfl
@[simp] theorem recordExc_value (x : Byte) (s : State) : (recordExc x s).value = s.value := rfl
@[simp] theorem recordExc_data (x : Byte) (s : State) : (recordExc x s).data = s.data := rfl
@[simp] theorem recordExc_crc (x : Byte) (s : State) : (recordExc x s).crc = s.crc := rfl
@[simp] theorem recordExc_result (x : Byte) (s : State) : (recordExc x s).result = s.result := rfl
@[simp] theorem recordExc_exc (x : Byte) (s : State) : (recordExc x s).exc = x := rfl
@[simp] theorem recordExc_txLen (x : Byte) (s : State) : (recordExc x s).txLen = s.txLen := rfl
@[simp] theorem recordExc_rxLen (x : Byte) (s : State) : (recordExc x s).rxLen = s.rxLen := rfl
@[simp] theorem recordExc_rxbuf (x : Byte) (s : State) : (recordExc x s).rxbuf = s.rxbuf := rfl
@[simp] theorem recordExc_txbuf (x : Byte) (s : State) : (recordExc x s).txbuf = s.txbuf := rfl
@[simp] theorem recordExc_coil (x : Byte) (s : State) : (recordExc x s).coil = s.coil := rfl
@[simp] theorem recordExc_phase (x : Byte) (s : State) : (recordExc x s).phase = s.phase := rfl
@[simp] theorem recordExc_op (x : Byte) (s : State) : (recordExc x s).op = s.op := rfl
@[simp] theorem recordExc_explen (x : Byte) (s : State) : (recordExc x s).explen = s.explen := rfl
@[simp] theorem recordExc_era (x : Byte) (s : State) : (recordExc x s).era = s.era := rfl
@[simp] theorem recordExc_events (x : Byte) (s : State) : (recordExc x s).events = s.events := rfl
@[simp] theorem recordExc_reads (x : Byte) (s : State) : (recordExc x s).reads = s.reads := rfl
@[simp] theorem recordExc_sent (x : Byte) (s : State) : (recordExc x s).sent = s.sent := rfl

/-! ### setRvalid -/

@[simp] theorem setRvalid_status (s : State) : (setRvalid s).status = { s.status with rvalid := true } := rfl
@[simp] theorem setRvalid_slave (s : State) : (setRvalid s).slave = s.slave := rfl
@[simp] theorem setRvalid_addr (s : State) : (setRvalid s).addr = s.addr := rfl
@[simp] theorem setRvalid_count (s : State) : (setRvalid s).count = s.count := rfl
@[simp] theorem setRvalid_value (s : State) : (setRvalid s).value = s.value := rfl
@[simp] theorem setRvalid_data (s : State) : (setRvalid s).data = s.data := rfl
@[simp] theorem setRvalid_crc (s : State) : (setRvalid s).crc = s.crc := rfl
@[simp] theorem setRvalid_result (s : State) : (setRvalid s).result = s.result := rfl
@[simp] theorem setRvalid_exc (s : State) : (setRvalid s).exc = s.exc := rfl
@[simp] theorem setRvalid_txLen (s : State) : (setRvalid s).txLen = s.txLen := rfl
@[simp] theorem setRvalid_rxLen (s : State) : (setRvalid s).rxLen = s.rxLen := rfl
@[simp] theorem setRvalid_rxbuf (s : State) : (setRvalid s).rxbuf = s.rxbuf := rfl
@[simp] theorem setRvalid_txbuf (s : State) : (setRvalid s).txbuf = s.txbuf := rfl
@[simp] theorem setRvalid_coil (s : State) : (setRvalid s).coil = s.coil := rfl
@[simp] theorem setRvalid_phase (s : State) : (setRvalid s).phase = s.phase := rfl
@[simp] theorem setRvalid_op (s : State) : (setRvalid s).op = s.op := rfl
@[simp] theorem setRvalid_explen (s : State) : (setRvalid s).explen = s.explen := rfl
@[simp] theorem setRvalid_era (s : State) : (setRvalid s).era = s.era := rfl
@[simp] theorem setRvalid_events (s : State) : (setRvalid s).events = s.events := rfl
@[simp] theorem setRvalid_reads (s : State) : (setRvalid s).reads = s.reads := rfl
@[simp] theorem setRvalid_sent (s : State) : (setRvalid s).sent = s.sent := rfl

/-! ### setCoil -/

@[simp] theorem setCoil_status (v : BitVec 2000) (s : State) : (setCoil v s).status = s.status := rfl
@[simp] theorem setCoil_slave (v : BitVec 2000) (s : State) : (setCoil v s).slave = s.slave := rfl
@[simp] theorem setCoil_addr (v : BitVec 2000) (s : State) : (setCoil v s).addr = s.addr := rfl
@[simp] theorem setCoil_count (v : BitVec 2000) (s : State) : (setCoil v s).count = s.count := rfl
@[simp] theorem setCoil_value (v : BitVec 2000) (s : State) : (setCoil v s).value = s.value := rfl
@[simp] theorem setCoil_data (v : BitVec 2000) (s : State) : (setCoil v s).data = s.data := rfl
@[simp] theorem setCoil_crc (v : BitVec 2000) (s : State) : (setCoil v s).crc = s.crc := rfl
@[simp] theorem setCoil_result (v : BitVec 2000) (s : State) : (setCoil v s).result = s.result := rfl
@[simp] theorem setCoil_exc (v : BitVec 2000) (s : State) : (setCoil v s).exc = s.exc := rfl
@[simp] theorem setCoil_txLen (v : BitVec 2000) (s : State) : (setCoil v s).txLen = s.txLen := rfl
@[simp] theorem setCoil_rxLen (v : BitVec 2000) (s : State) : (setCoil v s).rxLen = s.rxLen := rfl
@[simp] theorem setCoil_rxbuf (v : BitVec 2000) (s : State) : (setCoil v s).rxbuf = s.rxbuf := rfl
@[simp] theorem setCoil_txbuf (v : BitVec 2000) (s : State) : (setCoil v s).txbuf = s.txbuf := rfl
@[simp] theorem setCoil_coil (v : BitVec 2000) (s : State) : (setCoil v s).coil = v := rfl
@[simp] theorem setCoil_phase (v : BitVec 2000) (s : State) : (setCoil v s).phase = s.phase := rfl
@[simp] theorem setCoil_op (v : BitVec 2000) (s : State) : (setCoil v s).op = s.op := rfl
@[simp] theorem setCoil_explen (v : BitVec 2000) (s : State) : (setCoil v s).explen = s.explen := rfl
@[simp] theorem setCoil_era (v : BitVec 2000) (s : State) : (setCoil v s).era = s.era := rfl
@[simp] theorem setCoil_events (v : BitVec 2000) (s : State) : (setCoil v s).events = s.events := rfl
@[simp] theorem setCoil_reads (v : BitVec 2000) (s : State) : (setCoil v s).reads = s.reads := rfl
@[simp] theorem setCoil_sent (v : BitVec 2000) (s : State) : (setCoil v s).sent = s.sent := rfl

/-! ### setResult -/

@[simp] theorem setResult_status (w : Word) (s : State) : (setResult w s).status = s.status := rfl
@[simp] theorem setResult_slave (w : Word) (s : State) : (setResult w s).slave = s.slave := rfl
@[simp] theorem setResult_addr (w : Word) (s : State) : (setResult w s).addr = s.addr := rfl
@[simp] theorem setResult_count (w : Word) (s : State) : (setResult w s).count = s.count := rfl
@[simp] theorem setResult_value (w : Word) (s : State) : (setResult w s).value = s.value := rfl
@[simp] theorem setResult_data (w : Word) (s : State) : (setResult w s).data = s.data := rfl
@[simp] theorem setResult_crc (w : Word) (s : State) : (setResult w s).crc = s.crc := rfl
@[simp] theorem setResult_result (w : Word) (s : State) : (setResult w s).result = w := rfl
@[simp] theorem setResult_exc (w : Word) (s : State) : (setResult w s).exc = s.exc := rfl
@[simp] theorem setResult_txLen (w : Word) (s : State) : (setResult w s).txLen = s.txLen := rfl
@[simp] theorem setResult_rxLen (w : Word) (s : State) : (setResult w s).rxLen = s.rxLen := rfl
@[simp] theorem setResult_rxbuf (w : Word) (s : State) : (setResult w s).rxbuf = s.rxbuf := rfl
@[simp] theorem setResult_txbuf (w : Word) (s : State) : (setResult w s).txbuf = s.txbuf := rfl
@[simp] theorem setResult_coil (w : Word) (s : State) : (setResult w s).coil = s.coil := rfl
@[simp] theorem setResult_phase (w : Word) (s : State) : (setResult w s).phase = s.phase := rfl
@[simp] theorem setResult_op (w : Word) (s : State) : (setResult w s).op = s.op := rfl
@[simp] theorem setResult_explen (w : Word) (s : State) : (setResult w s).explen = s.explen := rfl
@[simp] theorem setResult_era (w : Word) (s : State) : (setResult w s).era = s.era := rfl
@[simp] theorem setResult_events (w : Word) (s : State) : (setResult w s).events = s.events := rfl
@[simp] theorem setResult_reads (w : Word) (s : State) : (setResult w s).reads = s.reads := rfl
@[simp] theorem setResult_sent (w : Word) (s : State) : (setResult w s).sent = s.sent := rfl

/-! ### setCrc -/

@[simp] theorem setCrc_status (w : Word) (s : State) : (setCrc w s).status = s.status := rfl
@[simp] theorem setCrc_slave (w : Word) (s : State) : (setCrc w s).slave = s.slave := rfl
@[simp] theorem setCrc_addr (w : Word) (s : State) : (setCrc w s).addr = s.addr := rfl
@[simp] theorem setCrc_count (w : Word) (s : State) : (setCrc w s).count = s.count := rfl
@[simp] theorem setCrc_value (w : Word) (s : State) : (setCrc w s).value = s.value := rfl
@[simp] theorem setCrc_data (w : Word) (s : State) : (setCrc w s).data = s.data := rfl
@[simp] theorem setCrc_crc (w : Word) (s : State) : (setCrc w s).crc = w := rfl
@[simp] theorem setCrc_result (w : Word) (s : State) : (setCrc w s).result = s.result := rfl
@[simp] theorem setCrc_exc (w : Word) (s : State) : (setCrc w s).exc = s.exc := rfl
@[simp] theorem setCrc_txLen (w : Word) (s : State) : (setCrc w s).txLen = s.txLen := rfl
@[simp] theorem setCrc_rxLen (w : Word) (s : State) : (setCrc w s).rxLen = s.rxLen := rfl
@[simp] theorem setCrc_rxbuf (w : Word) (s : State) : (setCrc w s).rxbuf = s.rxbuf := rfl
@[simp] theorem setCrc_txbuf (w : Word) (s : State) : (setCrc w s).txbuf = s.txbuf := rfl
@[simp] theorem setCrc_coil (w : Word) (s : State) : (setCrc w s).coil = s.coil := rfl
@[simp] theorem setCrc_phase (w : Word) (s : State) : (setCrc w s).phase = s.phase := rfl
@[simp] theorem setCrc_op (w : Word) (s : State) : (setCrc w s).op = s.op := rfl
@[simp] theorem setCrc_explen (w : Word) (s : State) : (setCrc w s).explen = s.explen := rfl
@[simp] theorem setCrc_era (w : Word) (s : State) : (setCrc w s).era = s.era := rfl
@[simp] theorem setCrc_events (w : Word) (s : State) : (setCrc w s).events = s.events := rfl
@[simp] theorem setCrc_reads (w : Word) (s : State) : (setCrc w s).reads = s.reads := rfl
@[simp] theorem setCrc_sent (w : Word) (s : State) : (setCrc w s).sent = s.sent := rfl

/-! ### putRequest -/

@[simp] theorem putRequest_status (fc : Byte) (w : Word) (s : State) : (putRequest fc w s).status = s.status := rfl
@[simp] theorem putRequest_slave (fc : Byte) (w : Word) (s : State) : (putRequest fc w s).slave = s.slave := rfl
@[simp] theorem putRequest_addr (fc : Byte) (w : Word) (s : State) : (putRequest fc w s).addr = s.addr := rfl
@[simp] theorem putRequest_count (fc : Byte) (w : Word) (s : State) : (putRequest fc w s).count = s.count := rfl
@[simp] theorem putRequest_value (fc : Byte) (w : Word) (s : State) : (putRequest fc w s).value = s.value := rfl
@[simp] theorem putRequest_data (fc : Byte) (w : Word) (s : State) : (putRequest fc w s).data = s.data := rfl
@[simp] theorem putRequest_crc (fc : Byte) (w : Word) (s : State) : (putRequest fc w s).crc = s.crc := rfl
@[simp] theorem putRequest_result (fc : Byte) (w : Word) (s : State) : (putRequest fc w s).result = s.result := rfl
@[simp] theorem putRequest_exc (fc : Byte) (w : Word) (s : State) : (putRequest fc w s).exc = s.exc := rfl
@[simp] theorem putRequest_txLen (fc : Byte) (w : Word) (s : State) : (putRequest fc w s).txLen = 8 := rfl
@[simp] theorem putRequest_rxLen (fc : Byte) (w : Word) (s : State) : (putRequest fc w s).rxLen = s.rxLen := rfl
@[simp] theorem putRequest_rxbuf (fc : Byte) (w : Word) (s : State) : (putRequest fc w s).rxbuf = s.rxbuf := rfl
@[simp] theorem putRequest_txbuf (fc : Byte) (w : Word) (s : State) : (putRequest fc w s).txbuf = buildReq s.slave fc s.addr w := rfl
@[simp] theorem putRequest_coil (fc : Byte) (w : Word) (s : State) : (putRequest fc w s).coil = s.coil := rfl
@[simp] theorem putRequest_phase (fc : Byte) (w : Word) (s : State) : (putRequest fc w s).phase = s.phase := rfl
@[simp] theorem putRequest_op (fc : Byte) (w : Word) (s : State) : (putRequest fc w s).op = s.op := rfl
@[simp] theorem putRequest_explen (fc : Byte) (w : Word) (s : State) : (putRequest fc w s).explen = s.explen := rfl
@[simp] theorem putRequest_era (fc : Byte) (w : Word) (s : State) : (putRequest fc w s).era = s.era := rfl
@[simp] theorem putRequest_events (fc : Byte) (w : Word) (s : State) : (putRequest fc w s).events = s.events := rfl
@[simp] theorem putRequest_reads (fc : Byte) (w : Word) (s : State) : (putRequest fc w s).reads = s.reads := rfl
@[simp] theorem putRequest_sent (fc : Byte) (w : Word) (s : State) : (putRequest fc w s).sent = s.sent := rfl

/-! ### dropRequest -/

@[simp] theorem dropRequest_status (s : State) : (dropRequest s).status = s.status := rfl
@[simp] theorem dropRequest_slave (s : State) : (dropRequest s).slave = s.slave := rfl
@[simp] theorem dropRequest_addr (s : State) : (dropRequest s).addr = s.addr := rfl
@[simp] theorem dropRequest_count (s : State) : (dropRequest s).count = s.count := rfl
@[simp] theorem dropRequest_value (s : State) : (dropRequest s).value = s.value := rfl
@[simp] theorem dropRequest_data (s : State) : (dropRequest s).data = s.data := rfl
@[simp] theorem dropRequest_crc (s : State) : (dropRequest s).crc = s.crc := rfl
@[simp] theorem dropRequest_result (s : State) : (dropRequest s).result = s.result := rfl
@[simp] theorem dropRequest_exc (s : State) : (dropRequest s).exc = s.exc := rfl
@[simp] theorem dropRequest_txLen (s : State) : (dropRequest s).txLen = 0 := rfl
@[simp] theorem dropRequest_rxLen (s : State) : (dropRequest s).rxLen = s.rxLen := rfl
@[simp] theorem dropRequest_rxbuf (s : State) : (dropRequest s).rxbuf = s.rxbuf := rfl
@[simp] theorem dropRequest_txbuf (s : State) : (dropRequest s).txbuf = s.txbuf := rfl
@[simp] theorem dropRequest_coil (s : State) : (dropRequest s).coil = s.coil := rfl
@[simp] theorem dropRequest_phase (s : State) : (dropRequest s).phase = s.phase := rfl
@[simp] theorem dropRequest_op (s : State) : (dropRequest s).op = s.op := rfl
@[simp] theorem dropRequest_explen (s : State) : (dropRequest s).explen = s.explen := rfl
@[simp] theorem dropRequest_era (s : State) : (dropRequest s).era = s.era := rfl
@[simp] theorem dropRequest_events (s : State) : (dropRequest s).events = s.events := rfl
@[simp] theorem dropRequest_reads (s : State) : (dropRequest s).reads = s.reads := rfl
@[simp] theorem dropRequest_sent (s : State) : (dropRequest s).sent = s.sent := rfl

/-! ### popEvent -/

@[simp] theorem popEvent_status (s : State) : (popEvent s).status = s.status := rfl
@[simp] theorem popEvent_slave (s : State) : (popEvent s).slave = s.slave := rfl
@[simp] theorem popEvent_addr (s : State) : (popEvent s).addr = s.addr := rfl
@[simp] theorem popEvent_count (s : State) : (popEvent s).count = s.count := rfl
@[simp] theorem popEvent_value (s : State) : (popEvent s).value = s.value := rfl
@[simp] theorem popEvent_data (s : State) : (popEvent s).data = s.data := rfl
@[simp] theorem popEvent_crc (s : State) : (popEvent s).crc = s.crc := rfl
@[simp] theorem popEvent_result (s : State) : (popEvent s).result = s.result := rfl
@[simp] theorem popEvent_exc (s : State) : (popEvent s).exc = s.exc := rfl
@[simp] theorem popEvent_txLen (s : State) : (popEvent s).txLen = s.txLen := rfl
@[simp] theorem popEvent_rxLen (s : State) : (popEvent s).rxLen = s.rxLen := rfl
@[simp] theorem popEvent_rxbuf (s : State) : (popEvent s).rxbuf = s.rxbuf := rfl
@[simp] theorem popEvent_txbuf (s : State) : (popEvent s).txbuf = s.txbuf := rfl
@[simp] theorem popEvent_coil (s : State) : (popEvent s).coil = s.coil := rfl
@[simp] theorem popEvent_phase (s : State) : (popEvent s).phase = s.phase := rfl
@[simp] theorem popEvent_op (s : State) : (popEvent s).op = s.op := rfl
@[simp] theorem popEvent_explen (s : State) : (popEvent s).explen = s.explen := rfl
@[simp] theorem popEvent_era (s : State) : (popEvent s).era = s.era := rfl
@[simp] theorem popEvent_events (s : State) : (popEvent s).events = s.events.tail := rfl
@[simp] theorem popEvent_reads (s : State) : (popEvent s).reads = s.reads := rfl
@[simp] theorem popEvent_sent (s : State) : (popEvent s).sent = s.sent := rfl

/-! ### startExchange -/

@[simp] theorem startExchange_status (o : Op) (s : State) : (startExchange o s).status = { s.status with busy := true } := rfl
@[simp] theorem startExchange_slave (o : Op) (s : State) : (startExchange o s).slave = s.slave := rfl
@[simp] theorem startExchange_addr (o : Op) (s : State) : (startExchange o s).addr = s.addr := rfl
@[simp] theorem startExchange_count (o : Op) (s : State) : (startExchange o s).count = s.count := rfl
@[simp] theorem startExchange_value (o : Op) (s : State) : (startExchange o s).value = s.value := rfl
@[simp] theorem startExchange_data (o : Op) (s : State) : (startExchange o s).data = s.data := rfl
@[simp] theorem startExchange_crc (o : Op) (s : State) : (startExchange o s).crc = s.crc := rfl
@[simp] theorem startExchange_result (o : Op) (s : State) : (startExchange o s).result = s.result := rfl
@[simp] theorem startExchange_exc (o : Op) (s : State) : (startExchange o s).exc = s.exc := rfl
@[simp] theorem startExchange_txLen (o : Op) (s : State) : (startExchange o s).txLen = s.txLen := rfl
@[simp] theorem startExchange_rxLen (o : Op) (s : State) : (startExchange o s).rxLen = s.rxLen := rfl
@[simp] theorem startExchange_rxbuf (o : Op) (s : State) : (startExchange o s).rxbuf = s.rxbuf := rfl
@[simp] theorem startExchange_txbuf (o : Op) (s : State) : (startExchange o s).txbuf = s.txbuf := rfl
@[simp] theorem startExchange_coil (o : Op) (s : State) : (startExchange o s).coil = s.coil := rfl
@[simp] theorem startExchange_phase (o : Op) (s : State) : (startExchange o s).phase = .send := rfl
@[simp] theorem startExchange_op (o : Op) (s : State) : (startExchange o s).op = o := rfl
@[simp] theorem startExchange_explen (o : Op) (s : State) : (startExchange o s).explen = explenOf s.txbuf := rfl
@[simp] theorem startExchange_era (o : Op) (s : State) : (startExchange o s).era = s.era := rfl
@[simp] theorem startExchange_events (o : Op) (s : State) : (startExchange o s).events = s.events := rfl
@[simp] theorem startExchange_reads (o : Op) (s : State) : (startExchange o s).reads = s.reads := rfl
@[simp] theorem startExchange_sent (o : Op) (s : State) : (startExchange o s).sent = s.sent := rfl

/-! ### chanWrite -/

@[simp] theorem chanWrite_status (s : State) : (chanWrite s).status = { s.status with attempts := s.status.attempts + 1 } := rfl
@[simp] theorem chanWrite_slave (s : State) : (chanWrite s).slave = s.slave := rfl
@[simp] theorem chanWrite_addr (s : State) : (chanWrite s).addr = s.addr := rfl
@[simp] theorem chanWrite_count (s : State) : (chanWrite s).count = s.count := rfl
@[simp] theorem chanWrite_value (s : State) : (chanWrite s).value = s.value := rfl
@[simp] theorem chanWrite_data (s : State) : (chanWrite s).data = s.data := rfl
@[simp] theorem chanWrite_crc (s : State) : (chanWrite s).crc = s.crc := rfl
@[simp] theorem chanWrite_result (s : State) : (chanWrite s).result = s.result := rfl
@[simp] theorem chanWrite_exc (s : State) : (chanWrite s).exc = s.exc := rfl
@[simp] theorem chanWrite_txLen (s : State) : (chanWrite s).txLen = s.txLen := rfl
@[simp] theorem chanWrite_rxLen (s : State) : (chanWrite s).rxLen = 0 := rfl
@[simp] theorem chanWrite_rxbuf (s : State) : (chanWrite s).rxbuf = s.rxbuf := rfl
@[simp] theorem chanWrite_txbuf (s : State) : (chanWrite s).txbuf = s.txbuf := rfl
@[simp] theorem chanWrite_coil (s : State) : (chanWrite s).coil = s.coil := rfl
@[simp] theorem chanWrite_phase (s : State) : (chanWrite s).phase = s.phase := rfl
@[simp] theorem chanWrite_op (s : State) : (chanWrite s).op = s.op := rfl
@[simp] theorem chanWrite_explen (s : State) : (chanWrite s).explen = s.explen := rfl
@[simp] theorem chanWrite_era (s : State) : (chanWrite s).era = s.era := rfl
@[simp] theorem chanWrite_events (s : State) : (chanWrite s).events = s.events := rfl
@[simp] theorem chanWrite_reads (s : State) : (chanWrite s).reads = s.reads := rfl
@[simp] theorem chanWrite_sent (s : State) : (chanWrite s).sent = s.sent ++ [s.txbuf] := rfl

/-! ### the two operations that write RXBUF -/

@[simp] theorem setRx_status (i : Nat) (b : Byte) (s : State) : (setRx i b s).status = s.status := rfl
@[simp] theorem setRx_slave (i : Nat) (b : Byte) (s : State) : (setRx i b s).slave = s.slave := rfl
@[simp] theorem setRx_addr (i : Nat) (b : Byte) (s : State) : (setRx i b s).addr = s.addr := rfl
@[simp] theorem setRx_count (i : Nat) (b : Byte) (s : State) : (setRx i b s).count = s.count := rfl
@[simp] theorem setRx_value (i : Nat) (b : Byte) (s : State) : (setRx i b s).value = s.value := rfl
@[simp] theorem setRx_data (i : Nat) (b : Byte) (s : State) : (setRx i b s).data = s.data := rfl
@[simp] theorem setRx_crc (i : Nat) (b : Byte) (s : State) : (setRx i b s).crc = s.crc := rfl
@[simp] theorem setRx_result (i : Nat) (b : Byte) (s : State) : (setRx i b s).result = s.result := rfl
@[simp] theorem setRx_exc (i : Nat) (b : Byte) (s : State) : (setRx i b s).exc = s.exc := rfl
@[simp] theorem setRx_txLen (i : Nat) (b : Byte) (s : State) : (setRx i b s).txLen = s.txLen := rfl
@[simp] theorem setRx_rxLen (i : Nat) (b : Byte) (s : State) : (setRx i b s).rxLen = s.rxLen := rfl
@[simp] theorem setRx_txbuf (i : Nat) (b : Byte) (s : State) : (setRx i b s).txbuf = s.txbuf := rfl
@[simp] theorem setRx_coil (i : Nat) (b : Byte) (s : State) : (setRx i b s).coil = s.coil := rfl
@[simp] theorem setRx_phase (i : Nat) (b : Byte) (s : State) : (setRx i b s).phase = s.phase := rfl
@[simp] theorem setRx_op (i : Nat) (b : Byte) (s : State) : (setRx i b s).op = s.op := rfl
@[simp] theorem setRx_explen (i : Nat) (b : Byte) (s : State) : (setRx i b s).explen = s.explen := rfl
@[simp] theorem setRx_era (i : Nat) (b : Byte) (s : State) : (setRx i b s).era = s.era := rfl
@[simp] theorem setRx_events (i : Nat) (b : Byte) (s : State) : (setRx i b s).events = s.events := rfl
@[simp] theorem setRx_reads (i : Nat) (b : Byte) (s : State) : (setRx i b s).reads = s.reads := rfl
@[simp] theorem setRx_sent (i : Nat) (b : Byte) (s : State) : (setRx i b s).sent = s.sent := rfl

theorem setRx_rxbuf (i : Nat) (b : Byte) (s : State) :
    (setRx i b s).rxbuf = if i < 256 then Memory.put s.rxbuf i b else s.rxbuf := rfl

@[simp] theorem appendRx_status (b : Byte) (s : State) : (appendRx b s).status = s.status := rfl
@[simp] theorem appendRx_slave (b : Byte) (s : State) : (appendRx b s).slave = s.slave := rfl
@[simp] theorem appendRx_addr (b : Byte) (s : State) : (appendRx b s).addr = s.addr := rfl
@[simp] theorem appendRx_count (b : Byte) (s : State) : (appendRx b s).count = s.count := rfl
@[simp] theorem appendRx_value (b : Byte) (s : State) : (appendRx b s).value = s.value := rfl
@[simp] theorem appendRx_data (b : Byte) (s : State) : (appendRx b s).data = s.data := rfl
@[simp] theorem appendRx_crc (b : Byte) (s : State) : (appendRx b s).crc = s.crc := rfl
@[simp] theorem appendRx_result (b : Byte) (s : State) : (appendRx b s).result = s.result := rfl
@[simp] theorem appendRx_exc (b : Byte) (s : State) : (appendRx b s).exc = s.exc := rfl
@[simp] theorem appendRx_txLen (b : Byte) (s : State) : (appendRx b s).txLen = s.txLen := rfl
@[simp] theorem appendRx_txbuf (b : Byte) (s : State) : (appendRx b s).txbuf = s.txbuf := rfl
@[simp] theorem appendRx_coil (b : Byte) (s : State) : (appendRx b s).coil = s.coil := rfl
@[simp] theorem appendRx_phase (b : Byte) (s : State) : (appendRx b s).phase = s.phase := rfl
@[simp] theorem appendRx_op (b : Byte) (s : State) : (appendRx b s).op = s.op := rfl
@[simp] theorem appendRx_explen (b : Byte) (s : State) : (appendRx b s).explen = s.explen := rfl
@[simp] theorem appendRx_era (b : Byte) (s : State) : (appendRx b s).era = s.era := rfl
@[simp] theorem appendRx_events (b : Byte) (s : State) : (appendRx b s).events = s.events := rfl
@[simp] theorem appendRx_reads (b : Byte) (s : State) : (appendRx b s).reads = s.reads := rfl
@[simp] theorem appendRx_sent (b : Byte) (s : State) : (appendRx b s).sent = s.sent := rfl
@[simp] theorem appendRx_rxLen (b : Byte) (s : State) : (appendRx b s).rxLen = s.rxLen + 1 := rfl
@[simp] theorem appendRx_rxbuf (b : Byte) (s : State) :
    (appendRx b s).rxbuf = (setRx s.rxLen.toNat b s).rxbuf := rfl

/-! ### the three updates of STATUS -/

@[simp] theorem Status.accept_busy (f : Status) : (f.accept).busy = f.busy := rfl
@[simp] theorem Status.accept_done (f : Status) : (f.accept).done = false := rfl
@[simp] theorem Status.accept_err (f : Status) : (f.accept).err = false := rfl
@[simp] theorem Status.accept_rvalid (f : Status) : (f.accept).rvalid = false := rfl
@[simp] theorem Status.accept_errKind (f : Status) : (f.accept).errKind = .none := rfl
@[simp] theorem Status.accept_attempts (f : Status) : (f.accept).attempts = 0 := rfl
@[simp] theorem Status.accept_excv (f : Status) : (f.accept).excv = false := rfl
@[simp] theorem Status.accept_ign (f : Status) : (f.accept).ign = false := rfl

@[simp] theorem Status.finishOk_busy (f : Status) : (f.finishOk).busy = false := rfl
@[simp] theorem Status.finishOk_done (f : Status) : (f.finishOk).done = true := rfl
@[simp] theorem Status.finishOk_err (f : Status) : (f.finishOk).err = false := rfl
@[simp] theorem Status.finishOk_rvalid (f : Status) : (f.finishOk).rvalid = f.rvalid := rfl
@[simp] theorem Status.finishOk_errKind (f : Status) : (f.finishOk).errKind = .none := rfl
@[simp] theorem Status.finishOk_attempts (f : Status) : (f.finishOk).attempts = f.attempts := rfl
@[simp] theorem Status.finishOk_excv (f : Status) : (f.finishOk).excv = f.excv := rfl
@[simp] theorem Status.finishOk_ign (f : Status) : (f.finishOk).ign = f.ign := rfl

@[simp] theorem Status.raise_busy (f : Status) (k : ErrKind) : (f.raise k).busy = false := rfl
@[simp] theorem Status.raise_done (f : Status) (k : ErrKind) : (f.raise k).done = true := rfl
@[simp] theorem Status.raise_err (f : Status) (k : ErrKind) : (f.raise k).err = true := rfl
@[simp] theorem Status.raise_rvalid (f : Status) (k : ErrKind) : (f.raise k).rvalid = f.rvalid := rfl
@[simp] theorem Status.raise_errKind (f : Status) (k : ErrKind) : (f.raise k).errKind = k := rfl
@[simp] theorem Status.raise_attempts (f : Status) (k : ErrKind) : (f.raise k).attempts = f.attempts := rfl
@[simp] theorem Status.raise_excv (f : Status) (k : ErrKind) : (f.raise k).excv = f.excv := rfl
@[simp] theorem Status.raise_ign (f : Status) (k : ErrKind) : (f.raise k).ign = f.ign := rfl

end Sys2Proof.Machine
end

