-- ==== Sys2Proof/Laws/Memory.lean ====
section
/-! SUPPORT. RXBUF: read after write, and the canonical form kept by every write. -/

namespace Sys2Proof.Machine

theorem Memory.find_put_same (m : List Host.Cell) (i : Nat) (b : Byte) :
    Memory.find (Memory.put m i b) i = some b := by
  induction m with
  | nil => simp [Memory.put, Memory.find]
  | cons x rest ih =>
    obtain ⟨k, v⟩ := x
    simp only [Memory.put]
    split
    · simp [Memory.find]
    · split
      · simp [Memory.find]
      · rename_i h1 h2
        have : k ≠ i := fun h => h2 h.symm
        simp [Memory.find, this, ih]

theorem Memory.find_put_other (m : List Host.Cell) {i j : Nat} (b : Byte) (h : j ≠ i) :
    Memory.find (Memory.put m i b) j = Memory.find m j := by
  induction m with
  | nil => simp [Memory.put, Memory.find, h.symm]
  | cons x rest ih =>
    obtain ⟨k, v⟩ := x
    simp only [Memory.put]
    split
    · simp [Memory.find, h.symm]
    · split
      · rename_i h2
        subst h2
        simp [Memory.find, h.symm]
      · simp [Memory.find, ih]

theorem Memory.mem_put {m : List Host.Cell} {i : Nat} {b : Byte} {x : Host.Cell}
    (h : x ∈ Memory.put m i b) : x = (i, b) ∨ x ∈ m := by
  induction m with
  | nil => simpa [Memory.put] using h
  | cons y rest ih =>
    obtain ⟨k, v⟩ := y
    simp only [Memory.put] at h
    split at h
    · simpa using h
    · split at h
      · simp only [List.mem_cons] at h ⊢
        tauto
      · simp only [List.mem_cons] at h ⊢
        rcases h with h | h
        · exact .inr (.inl h)
        · rcases ih h with h | h
          · exact .inl h
          · exact .inr (.inr h)

/-- A write below 256 keeps the canonical form. -/
theorem Memory.wf_put {m : List Host.Cell} {i : Nat} (b : Byte) (hm : Memory.wf m) (hi : i < 256) :
    Memory.wf (Memory.put m i b) := by
  refine ⟨?_, fun x hx => ?_⟩
  · have hp := hm.1
    clear hm
    induction m with
    | nil => simp [Memory.put]
    | cons y rest ih =>
      obtain ⟨k, v⟩ := y
      rw [List.pairwise_cons] at hp
      simp only [Memory.put]
      split
      · rename_i hik
        rw [List.pairwise_cons, List.pairwise_cons]
        refine ⟨fun x hx => ?_, hp⟩
        rcases List.mem_cons.1 hx with rfl | hx
        · exact hik
        · exact Nat.lt_trans hik (hp.1 x hx)
      · split
        · rename_i h2
          subst h2
          exact List.pairwise_cons.2 hp
        · rename_i h1 h2
          refine List.pairwise_cons.2 ⟨fun x hx => ?_, ih hp.2⟩
          rcases Memory.mem_put hx with rfl | hx
          · simp; omega
          · exact hp.1 x hx
  · rcases Memory.mem_put hx with rfl | hx
    · exact hi
    · exact hm.2 x hx

theorem Memory.wf_nil : Memory.wf [] := ⟨List.Pairwise.nil, by simp⟩

/-- Every RXBUF write keeps the canonical form, also one beyond the buffer, which writes nothing. -/
theorem setRx_wf {s : State} (i : Nat) (b : Byte) (h : Memory.wf s.rxbuf) : Memory.wf (setRx i b s).rxbuf := by
  rw [setRx_rxbuf]
  split
  · exact Memory.wf_put b h ‹_›
  · exact h

theorem rxAt_setRx_same (s : State) {i : Nat} (b : Byte) (h : i < 256) : rxAt (setRx i b s) i = b := by
  simp [rxAt, setRx_rxbuf, h, Memory.find_put_same]

theorem rxAt_setRx_other (s : State) {i j : Nat} (b : Byte) (h : j ≠ i) : rxAt (setRx i b s) j = rxAt s j := by
  unfold rxAt
  rw [setRx_rxbuf]
  split
  · rw [Memory.find_put_other _ _ h, setRx_era]
  · rw [setRx_era]

/-- RXBUF read depends on RXBUF and the reset count alone. -/
theorem rxAt_congr {s t : State} (h : t.rxbuf = s.rxbuf) (he : t.era = s.era) (i : Nat) : rxAt t i = rxAt s i := by
  simp [rxAt, h, he]

theorem rxFrame_congr {s t : State} (h : t.rxbuf = s.rxbuf) (he : t.era = s.era) (hl : t.rxLen = s.rxLen) :
    rxFrame t = rxFrame s := by
  simp only [rxFrame, hl]
  exact List.map_congr_left fun i _ => rxAt_congr h he i

@[simp] theorem rxFrame_length (s : State) : (rxFrame s).length = s.rxLen.toNat := by simp [rxFrame]

theorem rxFrame_getD (s : State) {i : Nat} (h : i < s.rxLen.toNat) : byteAt (rxFrame s) i = rxAt s i := by
  simp [byteAt, rxFrame, List.getD_eq_getElem?_getD, h]

/-- Appending a byte appends it to the frame, where RXBUF has room for it. -/
theorem rxFrame_appendRx (s : State) (b : Byte) (h : s.rxLen.toNat < 256) :
    rxFrame (appendRx b s) = rxFrame s ++ [b] := by
  have hl : (s.rxLen + 1).toNat = s.rxLen.toNat + 1 := by
    rw [BitVec.toNat_add]
    have : (1 : BitVec 9).toNat = 1 := rfl
    omega
  simp only [rxFrame, appendRx_rxLen, hl, List.range_succ, List.map_append, List.map_cons, List.map_nil]
  congr 1
  · refine List.map_congr_left fun i hi => ?_
    have hi := List.mem_range.1 hi
    rw [← rxAt_setRx_other s b (show i ≠ s.rxLen.toNat by omega)]
    exact rxAt_congr rfl rfl i
  · congr 1
    exact (rxAt_congr rfl rfl _).trans (rxAt_setRx_same s b h)

/-- A byte already received stays as it is when another is appended. -/
theorem rxAt_appendRx_other (s : State) (b : Byte) {i : Nat} (h : i ≠ s.rxLen.toNat) :
    rxAt (appendRx b s) i = rxAt s i := by
  rw [← rxAt_setRx_other s b h]
  exact rxAt_congr rfl rfl i

theorem rxAt_appendRx_same (s : State) (b : Byte) (h : s.rxLen.toNat < 256) :
    rxAt (appendRx b s) s.rxLen.toNat = b :=
  (rxAt_congr rfl rfl _).trans (rxAt_setRx_same s b h)

end Sys2Proof.Machine
end

