-- ==== Sys2Proof/Laws/Frames.lean ====
section
/-! SUPPORT. What the frame functions of the decoders and of the arbiter compute. -/

namespace Sys2Proof.Machine

theorem countOk_iff (n : Word) : countOk n = true ↔ 1 ≤ n.toNat ∧ n.toNat ≤ 2000 := by simp [countOk]

/-- Two words are equal when their bytes are. -/
theorem cat16_inj {a b c d : Byte} : cat16 a b = cat16 c d ↔ a = c ∧ b = d := by
  constructor
  · intro h
    exact ⟨by rw [← hi8_cat16 a b, h, hi8_cat16], by rw [← lo8_cat16 a b, h, lo8_cat16]⟩
  · rintro ⟨rfl, rfl⟩
    rfl

/-- The CRC check as a proposition (42_decoder.md R141). -/
theorem crcOk_iff (f : List Byte) :
    crcOk f = true ↔
      crc16 (f.take (f.length - 2)) = cat16 (byteAt f (f.length - 1)) (byteAt f (f.length - 2)) := by
  simp [crcOk]

/-- A frame with the CRC field c passes its check when c is the CRC of the bytes before it. -/
theorem crcOk_frameOf (body : List Byte) (c : Word) : crcOk (frameOf body c) = true ↔ crc16 body = c := by
  rw [crcOk_iff]
  simp [frameOf, crcField, byteAt, List.getD_eq_getElem?_getD]

/-- The word a decoder reads from RXBUF. -/
theorem wordAt_rxFrame (s : State) {i : Nat} (h : i + 1 < s.rxLen.toNat) :
    wordAt (rxFrame s) i = cat16 (rxAt s i) (rxAt s (i + 1)) := by
  rw [wordAt, rxFrame_getD s (by omega), rxFrame_getD s h]

theorem bytesLE_getLsbD (l : List Byte) {i : Nat} (h : i < 2000) :
    (bytesLE l).getLsbD i = (l.getD (i / 8) 0).getLsbD (i % 8) := by
  induction l generalizing i with
  | nil => simp [bytesLE]
  | cons b l ih =>
    simp only [bytesLE, BitVec.getLsbD_or, BitVec.getLsbD_setWidth, BitVec.getLsbD_shiftLeft, h, decide_true,
      Bool.true_and]
    by_cases h8 : i < 8
    · have hz : i / 8 = 0 := by omega
      simp [h8, hz, Nat.mod_eq_of_lt h8]
    · have hs : i / 8 = (i - 8) / 8 + 1 := by omega
      rw [ih (by omega), hs, BitVec.getLsbD_of_ge _ _ (by omega)]
      simp [h8, show (i - 8) % 8 = i % 8 by omega]

/-- The coil unpacker, coil by coil (42_decoder.md R145). -/
theorem unpack_getLsbD (rx : List Byte) {c i : Nat} (hi : i < 2000) (hc : c ≤ 2000) :
    (unpack rx c).getLsbD i = if i < c then (byteAt rx (3 + i / 8)).getLsbD (i % 8) else false := by
  unfold unpack
  rw [BitVec.getLsbD_and, bytesLE_getLsbD _ hi]
  simp only [BitVec.getLsbD_ushiftRight, BitVec.getLsbD_allOnes]
  have hm : (2000 - c + i < 2000) ↔ i < c := by omega
  by_cases hlt : i < c
  · simp [hm, hlt, byteAt, List.getD_eq_getElem?_getD]
  · simp [hm, hlt]

/-- TXBUF, byte by byte. -/
theorem toList_eight (t : Vector Byte 8) : t.toList = [t[0], t[1], t[2], t[3], t[4], t[5], t[6], t[7]] := by
  apply List.ext_getElem (by simp)
  intro i h1 h2
  have h8 : i < 8 := by simpa using h1
  interval_cases i <;> simp

/-- A request an encoder makes is answered by 6 to 255 bytes (43_arbiter.md R173, 42_decoder.md R147). -/
theorem explenOf_bounds {t : Vector Byte 8} (h : requestOk t = true) : 6 ≤ explenOf t ∧ explenOf t ≤ 255 := by
  unfold requestOk decode at h
  simp only [toList_eight, decodeRequest, decodeRequestFields] at h
  unfold explenOf
  by_cases h1 : t[1] = 0x01#8
  · simp [h1, wellFormed, countOk_iff] at h ⊢
    unfold coilBytes ceilDiv
    omega
  by_cases h3 : t[1] = 0x03#8
  · simp [h3]
  by_cases h5 : t[1] = 0x05#8
  · simp [h5]
  by_cases h6 : t[1] = 0x06#8
  · simp [h6]
  simp [h1, h3, h5, h6] at h

/-- The request `build_req` makes, as the decoder reads it. -/
theorem decode_buildReq (sl fc : Byte) (a w : Word) :
    decode (.request (buildReq sl fc a w).toList) = decodeRequestFields sl fc a w (crc16 (sixBody sl fc a w)) := by
  simp [decode, buildReq, decodeRequest]

end Sys2Proof.Machine
end

