-- ==== Sys2Proof/Laws/Ops.lean ====
section
/-! SUPPORT. What each shared operation can do, said once. -/

namespace Sys2Proof.Machine

/-! ### issuing a command -/

theorem issue_busy {body : State → State} {s : State} (h : s.status.busy = true) : issue body s = setIgn s := by
  simp [issue, h]

theorem issue_ready {body : State → State} {s : State} (h : s.status.busy = false) :
    issue body s = body (acceptPrologue s) := by
  simp [issue, h]

/-! ### how a decoder ends -/

/-- A command ended in an error: a kind, with EXC and EXCV recorded for an exception response. -/
inductive EndsInError (s t : State) : Prop
  | raised (k : ErrKind) (hk : k ≠ .none) (hk' : k ≠ .nonContiguousBundle) (h : t = raiseErr k s)
  | exception (x : Byte) (h : t = raiseErr .deviceException (recordExc x s))

theorem frameCheck_bad_kind {efc : Byte} {rx : List Byte} {k : ErrKind} (h : frameCheck efc rx = .bad k) :
    k = .protocolError ∨ k = .crcMismatch := by
  unfold frameCheck at h
  repeat' split at h
  all_goals simp_all

/-- A frame check either ends the command in an error or lets the decoder go on. -/
theorem withFrame_cases (efc : Byte) (k : List Byte → State → State) (s : State) :
    EndsInError s (withFrame efc k s) ∨
      (frameCheck efc (rxFrame s) = .good ∧ withFrame efc k s = k (rxFrame s) s) := by
  unfold withFrame
  split
  · rename_i e h
    refine .inl (.raised e ?_ ?_ rfl) <;> rcases frameCheck_bad_kind h with rfl | rfl <;> simp
  · exact .inl (.exception _ rfl)
  · rename_i h
    exact .inr ⟨h, rfl⟩

theorem decRBBody_cases (s : State) :
    EndsInError s (decRBBody s) ∨ ∃ c, decRBBody s = finishOk (setRvalid (setCoil c s)) := by
  unfold decRBBody
  split
  · rcases withFrame_cases 0x01#8 decRBRest s with h | ⟨-, h⟩
    · exact .inl h
    · rw [h]
      unfold decRBRest
      split
      · exact .inl (.raised _ (by simp) (by simp) rfl)
      · split
        · exact .inl (.raised _ (by simp) (by simp) rfl)
        · exact .inr ⟨_, rfl⟩
  · exact .inl (.raised _ (by simp) (by simp) rfl)

theorem decRRBody_cases (s : State) :
    EndsInError s (decRRBody s) ∨ ∃ w, decRRBody s = finishOk (setRvalid (setResult w s)) := by
  unfold decRRBody
  rcases withFrame_cases 0x03#8 decRRRest s with h | ⟨-, h⟩
  · exact .inl h
  · rw [h]
    unfold decRRRest
    split
    · exact .inl (.raised _ (by simp) (by simp) rfl)
    · split
      · exact .inl (.raised _ (by simp) (by simp) rfl)
      · exact .inr ⟨_, rfl⟩

theorem writeAckRest_cases (ev : Word) (rx : List Byte) (s : State) :
    EndsInError s (writeAckRest ev rx s) ∨ writeAckRest ev rx s = finishOk s := by
  unfold writeAckRest
  split
  · exact .inl (.raised _ (by simp) (by simp) rfl)
  · split
    · exact .inl (.raised _ (by simp) (by simp) rfl)
    · split
      · exact .inl (.raised _ (by simp) (by simp) rfl)
      · exact .inr rfl

theorem decWBBody_cases (s : State) : EndsInError s (decWBBody s) ∨ decWBBody s = finishOk s := by
  unfold decWBBody
  rcases withFrame_cases 0x05#8 (writeAckRest (coilWord s.value)) s with h | ⟨-, h⟩
  · exact .inl h
  · rw [h]
    exact writeAckRest_cases _ _ s

theorem decWRBody_cases (s : State) : EndsInError s (decWRBody s) ∨ decWRBody s = finishOk s := by
  unfold decWRBody
  rcases withFrame_cases 0x06#8 (writeAckRest s.value) s with h | ⟨-, h⟩
  · exact .inl h
  · rw [h]
    exact writeAckRest_cases _ _ s

theorem chkCrcBody_cases (s : State) : EndsInError s (chkCrcBody s) ∨ chkCrcBody s = finishOk s := by
  unfold chkCrcBody
  split
  · exact .inl (.raised _ (by simp) (by simp) rfl)
  · split
    · exact .inl (.raised _ (by simp) (by simp) rfl)
    · exact .inr rfl

theorem chkExcBody_cases (s : State) :
    EndsInError s (chkExcBody s) ∨ chkExcBody s = finishOk s ∨ ∃ x, chkExcBody s = finishOk (recordExc x s) := by
  unfold chkExcBody
  split
  · exact .inl (.raised _ (by simp) (by simp) rfl)
  · split
    · exact .inl (.raised _ (by simp) (by simp) rfl)
    · split
      · split
        · exact .inl (.raised _ (by simp) (by simp) rfl)
        · exact .inr (.inr ⟨_, rfl⟩)
      · exact .inr (.inl rfl)

/-! ### the exchange -/

/-- How completion ends: in an error, in plain success, or with a result written and RVALID set by the TXN_x that reads
it. -/
theorem complete_cases (s : State) :
    EndsInError s (complete s) ∨ complete s = finishOk s ∨
      (s.op = .txnRB ∧ ∃ c, complete s = finishOk (setRvalid (setCoil c s))) ∨
      (s.op = .txnRR ∧ ∃ w, complete s = finishOk (setRvalid (setResult w s))) := by
  cases hop : s.op <;> simp only [complete, hop]
  · exact .inr (.inl trivial)
  · rcases decRBBody_cases s with h | h
    · exact .inl h
    · exact .inr (.inr (.inl ⟨trivial, h⟩))
  · rcases decRRBody_cases s with h | h
    · exact .inl h
    · exact .inr (.inr (.inr ⟨trivial, h⟩))
  · rcases decWBBody_cases s with h | h
    · exact .inl h
    · exact .inr (.inl h)
  · rcases decWRBody_cases s with h | h
    · exact .inl h
    · exact .inr (.inl h)

/-- When a response is complete (43_arbiter.md R176), as a proposition. -/
theorem rxComplete_iff (s : State) :
    rxComplete s = true ↔ s.rxLen.toNat = s.explen ∨ (s.rxLen.toNat = 5 ∧ (rxAt s 1).getLsbD 7 = true) := by
  have h5 : s.rxLen = 5 ↔ s.rxLen.toNat = 5 := by
    rw [← BitVec.toNat_inj]
    rfl
  unfold rxComplete
  rw [Bool.or_eq_true, Bool.and_eq_true, decide_eq_true_eq, decide_eq_true_eq, h5]

/-- One received byte is dropped, kept, or completes the response. -/
theorem rxByte_cases (s : State) (b : Byte) :
    (s.phase ≠ .recv ∧ rxByte s b = s) ∨
    (s.phase = .recv ∧ rxComplete (appendRx b s) = false ∧ rxByte s b = appendRx b s) ∨
    (s.phase = .recv ∧ rxComplete (appendRx b s) = true ∧ rxByte s b = complete (appendRx b s)) := by
  unfold rxByte
  split
  · cases h : rxComplete (appendRx b s)
    · exact .inr (.inl ⟨‹_›, rfl, by simp⟩)
    · exact .inr (.inr ⟨‹_›, rfl, by simp⟩)
  · exact .inl ⟨‹_›, rfl⟩

theorem rxByte_dropped {s : State} (h : s.phase ≠ .recv) (b : Byte) : rxByte s b = s := by simp [rxByte, h]

theorem receive_nil (s : State) : receive [] s = s := rfl

theorem receive_cons (b : Byte) (bs : List Byte) (s : State) : receive (b :: bs) s = receive bs (rxByte s b) := rfl

theorem receive_append (bs cs : List Byte) (s : State) : receive (bs ++ cs) s = receive cs (receive bs s) :=
  List.foldl_append ..

/-- Bytes that arrive while PHASE is not RECV change nothing (43_arbiter.md R180). -/
theorem receive_dropped {s : State} (h : s.phase ≠ .recv) (bs : List Byte) : receive bs s = s := by
  induction bs with
  | nil => rfl
  | cons b bs ih => rw [receive_cons, rxByte_dropped h, ih]

/-- What one byte keeps, received bytes keep. -/
theorem receive_keeps {P : State → Prop} (hP : ∀ s b, P s → P (rxByte s b)) {s : State} (hs : P s) (bs : List Byte) :
    P (receive bs s) := by
  induction bs generalizing s with
  | nil => exact hs
  | cons b bs ih => exact ih (hP s b hs)

theorem timeoutStep_cases (s : State) :
    (s.phase ≠ .recv ∧ timeoutStep s = s) ∨
    (s.phase = .recv ∧ s.status.attempts.toNat < 2 ∧ timeoutStep s = { s with phase := .send }) ∨
    (s.phase = .recv ∧ ¬ s.status.attempts.toNat < 2 ∧ timeoutStep s = raiseErr (timeoutKind s) s) := by
  unfold timeoutStep Config.maxAttempts
  split
  · split
    · exact .inr (.inl ⟨‹_›, ‹_›, rfl⟩)
    · exact .inr (.inr ⟨‹_›, ‹_›, rfl⟩)
  · exact .inl ⟨‹_›, rfl⟩

theorem timeoutKind_cases (s : State) : timeoutKind s = .noResponse ∨ timeoutKind s = .truncatedResponse := by
  unfold timeoutKind
  split
  · exact .inl rfl
  · exact .inr rfl

/-- The SEND step runs where PHASE = SEND, TXBUF is the frame and the answer comes next. -/
theorem transmit_answered {s : State} {f : List Byte} {ans : TxAnswer} {rest : List Event} (hp : s.phase = .send)
    (hf : s.txbuf.toList = f) (he : s.events = .tx ans :: rest) : transmit f s = sendStep ans (popEvent s) := by
  simp [transmit, hp, hf, he]

/-! ### HOST accesses -/

theorem writeReg_cases (r : HostReg) (v : Word) (s : State) :
    (r.isProtected = false ∧ writeReg r v s = s) ∨
    (r.isProtected = true ∧ s.status.busy = true ∧ writeReg r v s = setIgn s) ∨
    (r.isProtected = true ∧ s.status.busy = false ∧ writeReg r v s = storeReg r v s) := by
  unfold writeReg
  cases r.isProtected <;> cases s.status.busy <;> simp

/-- CMD is word address 0, and no other (10_state.md R22). -/
theorem hostReg_eq_cmd (a : BitVec 10) : hostReg a = .cmd ↔ a = 0x000#10 := by
  revert a
  decide +kernel

theorem controlReg_ne_buffer (n i : Nat) :
    controlReg n ≠ .rxbuf i ∧ controlReg n ≠ .txbuf i ∧ controlReg n ≠ .coilw i := by
  unfold controlReg
  split <;> simp

theorem hostReg_rxbuf_lt {a : BitVec 10} {i : Nat} (h : hostReg a = .rxbuf i) : i < 256 := by
  unfold hostReg at h
  split_ifs at h
  · exact absurd h (controlReg_ne_buffer _ i).1
  · injection h; omega

theorem hostReg_txbuf_lt {a : BitVec 10} {i : Nat} (h : hostReg a = .txbuf i) : i < 8 := by
  unfold hostReg at h
  split_ifs at h
  · exact absurd h (controlReg_ne_buffer _ i).2.1
  · injection h; omega

theorem hostReg_coilw_lt {a : BitVec 10} {k : Nat} (h : hostReg a = .coilw k) : k < 125 := by
  unfold hostReg at h
  split_ifs at h
  · exact absurd h (controlReg_ne_buffer _ k).2.2
  · injection h; omega

end Sys2Proof.Machine
end

