-- ==== Sys2Proof/Laws/PerInstr.lean ====
section
/-! SUPPORT. Statements made per instruction, one lemma for each constructor. -/

namespace Sys2Proof.Laws

open Sys2Proof.Machine

/-- The size of each form (30_encoding.md R80, R93; 42_decoder.md R147): a command is one CMD value of the table, a
request 8 bytes, a response 5 to 255 bytes. -/
def formFits : Form → Bool
  | .command c => decide (c ∈ commandTable.map Prod.fst)
  | .request bs => decide (bs.length = 8)
  | .response bs => decide (5 ≤ bs.length ∧ bs.length ≤ 255)

/-- Every well-formed instruction's form has its size. -/
def EncodedForm.Statement (i : Instr) : Prop := wellFormed i = true → formFits (encode i) = true

theorem EncodedForm.crcInit : EncodedForm.Statement .crcInit := fun _ => by decide

theorem EncodedForm.crcFeed : EncodedForm.Statement .crcFeed := fun _ => by decide

theorem EncodedForm.chkCrc : EncodedForm.Statement .chkCrc := fun _ => by decide

theorem EncodedForm.chkExc : EncodedForm.Statement .chkExc := fun _ => by decide

theorem EncodedForm.encRB : EncodedForm.Statement .encRB := fun _ => by decide

theorem EncodedForm.encRR : EncodedForm.Statement .encRR := fun _ => by decide

theorem EncodedForm.encWB : EncodedForm.Statement .encWB := fun _ => by decide

theorem EncodedForm.encWR : EncodedForm.Statement .encWR := fun _ => by decide

theorem EncodedForm.decRB : EncodedForm.Statement .decRB := fun _ => by decide

theorem EncodedForm.decRR : EncodedForm.Statement .decRR := fun _ => by decide

theorem EncodedForm.decWB : EncodedForm.Statement .decWB := fun _ => by decide

theorem EncodedForm.decWR : EncodedForm.Statement .decWR := fun _ => by decide

theorem EncodedForm.xfer : EncodedForm.Statement .xfer := fun _ => by decide

theorem EncodedForm.txnRB : EncodedForm.Statement .txnRB := fun _ => by decide

theorem EncodedForm.txnRR : EncodedForm.Statement .txnRR := fun _ => by decide

theorem EncodedForm.txnWB : EncodedForm.Statement .txnWB := fun _ => by decide

theorem EncodedForm.txnWR : EncodedForm.Statement .txnWR := fun _ => by decide

theorem EncodedForm.reqReadBits (sl : Byte) (a n c : Word) : EncodedForm.Statement (.reqReadBits sl a n c) :=
  fun _ => rfl

theorem EncodedForm.reqReadRegister (sl : Byte) (a c : Word) : EncodedForm.Statement (.reqReadRegister sl a c) :=
  fun _ => rfl

theorem EncodedForm.reqWriteBitOn (sl : Byte) (a c : Word) : EncodedForm.Statement (.reqWriteBitOn sl a c) :=
  fun _ => rfl

theorem EncodedForm.reqWriteBitOff (sl : Byte) (a c : Word) : EncodedForm.Statement (.reqWriteBitOff sl a c) :=
  fun _ => rfl

theorem EncodedForm.reqWriteRegister (sl : Byte) (a v c : Word) : EncodedForm.Statement (.reqWriteRegister sl a v c) :=
  fun _ => rfl

theorem EncodedForm.rspReadBits (sl : Byte) (d : List Byte) (c : Word) : EncodedForm.Statement (.rspReadBits sl d c) := by
  intro h
  simp only [wellFormed, Bool.and_eq_true, decide_eq_true_eq] at h
  simp only [encode, formFits, frameOf, readBitsBody, crcField, List.length_append, List.length_cons,
    List.length_nil, decide_eq_true_eq]
  omega

theorem EncodedForm.rspReadRegister (sl : Byte) (w c : Word) : EncodedForm.Statement (.rspReadRegister sl w c) :=
  fun _ => rfl

theorem EncodedForm.rspWriteBitEcho (sl : Byte) (a e c : Word) : EncodedForm.Statement (.rspWriteBitEcho sl a e c) :=
  fun _ => rfl

theorem EncodedForm.rspWriteRegisterEcho (sl : Byte) (a e c : Word) : EncodedForm.Statement (.rspWriteRegisterEcho sl a e c) :=
  fun _ => rfl

theorem EncodedForm.rspException (sl : Byte) (f : BitVec 7) (x : Byte) (c : Word) : EncodedForm.Statement (.rspException sl f x c) :=
  fun _ => rfl

end Sys2Proof.Laws
end

