-- ==== Sys2Proof/Laws/Reception.lean ====
section
/-! SUPPORT. The reception of a response up to its completion, said once (43_arbiter.md R176, R177). -/

namespace Sys2Proof.Machine

/-- The bytes of a frame appended one after the other. -/
def appendAll (bs : List Byte) (s : State) : State := bs.foldl (fun s b => appendRx b s) s

theorem appendAll_append (bs cs : List Byte) (s : State) : appendAll (bs ++ cs) s = appendAll cs (appendAll bs s) :=
  List.foldl_append ..

/-- Appending writes RXBUF and RX_LEN alone. -/
theorem appendAll_eq (bs : List Byte) (s : State) :
    appendAll bs s = { s with rxbuf := (appendAll bs s).rxbuf, rxLen := (appendAll bs s).rxLen } := by
  induction bs generalizing s with
  | nil => rfl
  | cons b bs ih => exact ih (appendRx b s)

theorem appendRx_toNat (b : Byte) (s : State) (h : s.rxLen.toNat < 511) :
    (appendRx b s).rxLen.toNat = s.rxLen.toNat + 1 := by
  rw [appendRx_rxLen, BitVec.toNat_add]
  have : (1 : BitVec 9).toNat = 1 := rfl
  omega

/-- The frame after the bytes are appended is the frame before and the bytes, and RXBUF beyond reads as before. -/
theorem appendAll_frame (bs : List Byte) (s : State) (h : s.rxLen.toNat + bs.length ≤ 256) :
    (appendAll bs s).rxLen.toNat = s.rxLen.toNat + bs.length ∧
    rxFrame (appendAll bs s) = rxFrame s ++ bs ∧
    ∀ i, s.rxLen.toNat + bs.length ≤ i → rxAt (appendAll bs s) i = rxAt s i := by
  induction bs generalizing s with
  | nil => simp [appendAll]
  | cons b bs ih =>
    rw [List.length_cons] at h
    have hl := appendRx_toNat b s (by omega)
    obtain ⟨h1, h2, h3⟩ := ih (appendRx b s) (by omega)
    refine ⟨?_, ?_, fun i hi => ?_⟩
    · show (appendAll bs (appendRx b s)).rxLen.toNat = _
      rw [h1, hl, List.length_cons]
      omega
    · show rxFrame (appendAll bs (appendRx b s)) = _
      rw [h2, rxFrame_appendRx s b (by omega), List.append_assoc]
      rfl
    · rw [List.length_cons] at hi
      show rxAt (appendAll bs (appendRx b s)) i = _
      rw [h3 i (by omega), rxAt_appendRx_other s b (by omega)]

/-- What completion leaves: one of the two ends of a command, with the bytes received, ATTEMPTS, IGN and what CHANNEL was
handed as they were. -/
theorem complete_keeps (s : State) :
    (complete s).phase = .idle ∧ (complete s).status.done = true ∧ (complete s).status.attempts = s.status.attempts ∧
    (complete s).status.ign = s.status.ign ∧ (complete s).rxbuf = s.rxbuf ∧ (complete s).rxLen = s.rxLen ∧
    (complete s).era = s.era ∧ (complete s).sent = s.sent ∧ (complete s).events = s.events := by
  rcases complete_cases s with e | e | ⟨-, c, e⟩ | ⟨-, c, e⟩
  · cases e with
    | raised k _ _ h => rw [h]; exact ⟨rfl, rfl, rfl, rfl, rfl, rfl, rfl, rfl, rfl⟩
    | exception x h => rw [h]; exact ⟨rfl, rfl, rfl, rfl, rfl, rfl, rfl, rfl, rfl⟩
  all_goals rw [e]; exact ⟨rfl, rfl, rfl, rfl, rfl, rfl, rfl, rfl, rfl⟩

/-- Reception neither transmits nor counts an attempt, and leaves IGN. -/
theorem receive_keeps_counts (bs : List Byte) (s : State) :
    (receive bs s).status.attempts = s.status.attempts ∧ (receive bs s).status.ign = s.status.ign ∧
    (receive bs s).sent = s.sent := by
  refine receive_keeps (P := fun t =>
    t.status.attempts = s.status.attempts ∧ t.status.ign = s.status.ign ∧ t.sent = s.sent) ?_ ⟨rfl, rfl, rfl⟩ bs
  intro t b h
  rcases rxByte_cases t b with ⟨_, e⟩ | ⟨_, _, e⟩ | ⟨_, _, e⟩ <;> rw [e]
  · exact h
  · exact h
  · obtain ⟨-, -, ha, hi, -, -, -, hs, -⟩ := complete_keeps (appendRx b t)
    exact ⟨ha.trans h.1, hi.trans h.2.1, hs.trans h.2.2⟩

/-- Byte 1 of the frame does not change by what comes after it. -/
theorem byteAt_append_left {f : List Byte} (h : 1 < f.length) (l : List Byte) : byteAt (f ++ l) 1 = byteAt f 1 := by
  unfold byteAt
  rw [List.getD_eq_getElem?_getD, List.getD_eq_getElem?_getD, List.getElem?_append_left h]

/-- Where an open reception (10_state.md R43) meets the bytes that complete its response, these are appended, the command
completes, and what comes after them is dropped (43_arbiter.md R176, R177, R180). -/
theorem receive_completes {s : State} {bs : List Byte} (late : List Byte) (hp : s.phase = .recv)
    (ho : s.rxLen.toNat < s.explen ∧ (s.rxLen.toNat < 5 ∨ (rxAt s 1).getLsbD 7 = false))
    (hx : 5 < s.explen ∧ s.explen ≤ 255) (hc : completes s bs) :
    receive (bs ++ late) s = complete (appendAll bs s) := by
  have bit7 : ∀ b : Byte, 0x80 ≤ b.toNat ↔ b.getLsbD 7 = true := by decide
  unfold completes at hc
  simp only [List.length_append, rxFrame_length] at hc
  induction bs generalizing s with
  | nil =>
    exfalso
    simp only [List.append_nil, List.length_nil, Nat.add_zero] at hc
    split at hc
    · rename_i h7
      have h1 : byteAt (rxFrame s) 1 = rxAt s 1 := rxFrame_getD s (by omega)
      rw [h1, bit7] at h7
      rcases ho.2 with h | h
      · omega
      · rw [h] at h7; cases h7
    · omega
  | cons b bs ih =>
    rw [List.length_cons] at hc
    have hl := appendRx_toNat b s (by omega)
    have hf := rxFrame_appendRx s b (by omega)
    have hsplit : rxFrame s ++ b :: bs = rxFrame (appendRx b s) ++ bs := by rw [hf, List.append_assoc]; rfl
    rw [hsplit] at hc
    have h1 : 1 < (appendRx b s).rxLen.toNat →
        byteAt (rxFrame (appendRx b s) ++ bs) 1 = rxAt (appendRx b s) 1 := fun h => by
      rw [byteAt_append_left (by rw [rxFrame_length]; exact h)]
      exact rxFrame_getD _ h
    rw [List.cons_append, receive_cons]
    show receive (bs ++ late) (rxByte s b) = complete (appendAll bs (appendRx b s))
    by_cases hn : bs = []
    · subst hn
      rw [List.length_nil] at hc
      have hcomp : rxComplete (appendRx b s) = true := by
        rw [rxComplete_iff]
        split at hc
        · rename_i h7
          rw [h1 (by omega), bit7] at h7
          exact .inr ⟨by omega, h7⟩
        · exact .inl (by rw [hl]; exact hc)
      rcases rxByte_cases s b with ⟨h, _⟩ | ⟨_, h, _⟩ | ⟨_, _, h⟩
      · exact absurd hp h
      · rw [h] at hcomp; cases hcomp
      · rw [h]
        exact receive_dropped (by rw [(complete_keeps _).1]; decide) _
    · have hpos : 0 < bs.length := List.length_pos_iff.mpr hn
      have hcomp : ¬ rxComplete (appendRx b s) = true := by
        rw [rxComplete_iff, hl]
        rintro (h | ⟨h5, h7⟩)
        · have h : s.rxLen.toNat + 1 = s.explen := h
          split at hc <;> omega
        · rw [if_pos (by rw [h1 (by omega), bit7]; exact h7)] at hc
          omega
      rcases rxByte_cases s b with ⟨h, _⟩ | ⟨_, _, h⟩ | ⟨_, h, _⟩
      · exact absurd hp h
      · rw [h]
        refine ih hp ⟨?_, ?_⟩ hx ?_
        · show (appendRx b s).rxLen.toNat < s.explen
          split at hc <;> omega
        · by_cases h5 : (appendRx b s).rxLen.toNat < 5
          · exact .inl h5
          · right
            rw [← Bool.not_eq_true, ← bit7, ← h1 (by omega)]
            intro h7
            rw [if_pos h7] at hc
            omega
        · show if _ then _ else _ = s.explen
          split at hc <;> rename_i h7
          · rw [if_pos h7]; omega
          · rw [if_neg h7]; omega
      · exact absurd h hcomp

end Sys2Proof.Machine
end

