-- ==== Sys2Proof/Laws/Step.lean ====
section
/-! SUPPORT. What a step can do, said once: every invariant is derived from `step_cases`. -/

namespace Sys2Proof.Machine

/-- The body that runs after the prologue of each command; a wire format is no command. -/
def bodyOf : Instr → State → State
  | .crcInit => crcInitBody
  | .crcFeed => crcFeedBody
  | .chkCrc => chkCrcBody
  | .chkExc => chkExcBody
  | .encRB => encRBBody finishOk
  | .encRR => encRRBody finishOk
  | .encWB => encWBBody finishOk
  | .encWR => encWRBody finishOk
  | .decRB => decRBBody
  | .decRR => decRRBody
  | .decWB => decWBBody
  | .decWR => decWRBody
  | .xfer => xferBody
  | .txnRB => encRBBody (startExchange .txnRB)
  | .txnRR => encRRBody (startExchange .txnRR)
  | .txnWB => encWBBody (startExchange .txnWB)
  | .txnWR => encWRBody (startExchange .txnWR)
  | .reqReadBits .. => id
  | .reqReadRegister .. => id
  | .reqWriteBitOn .. => id
  | .reqWriteBitOff .. => id
  | .reqWriteRegister .. => id
  | .rspReadBits .. => id
  | .rspReadRegister .. => id
  | .rspWriteBitEcho .. => id
  | .rspWriteRegisterEcho .. => id
  | .rspException .. => id

/-- The body of the command a CMD value stands for: the row's, or `raise IllegalCommand()` (30_encoding.md R84). -/
def commandBody (c : Word) : State → State :=
  match decodeCommand c with
  | .instr i => bodyOf i
  | .reject _ => raiseErr .illegalCommand

theorem exec_command {i : Instr} {c : Word} (h : encode i = .command c) (s : State) :
    exec i s = .next (issue (bodyOf i) s) := by
  cases i <;> simp only [encode, reduceCtorEq] at h <;> rfl

theorem exec_request {i : Instr} {bs : List Byte} (h : encode i = .request bs) (s : State) :
    exec i s = .next (transmit bs s) := by
  cases i <;> simp only [encode, Form.request.injEq, reduceCtorEq] at h <;> subst h <;> rfl

theorem exec_response {i : Instr} {bs : List Byte} (h : encode i = .response bs) (s : State) :
    exec i s = .next (receive bs s) := by
  cases i <;> simp only [encode, Form.response.injEq, reduceCtorEq] at h <;> subst h <;> rfl

theorem writeCmd_eq (c : Word) (s : State) : writeCmd c s = .next (issue (commandBody c) s) := by
  have e : decode (.command c) = decodeCommand c := rfl
  unfold writeCmd commandBody
  rw [e]
  cases h : decodeCommand c with
  | instr i => exact exec_command (encode_of_decodeCommand h) s
  | reject r => rfl

/-- Whether or not received bytes form a frame, their effect is the reception of each in turn. -/
theorem rxAccess_eq (bs : List Byte) (s : State) : rxAccess bs s = .next (receive bs s) := by
  have e : decode (.response bs) = decodeResponse bs := rfl
  unfold rxAccess
  rw [e]
  cases h : decodeResponse bs with
  | instr i => exact exec_response (encode_of_decodeResponse h) s
  | reject r => rfl

/-- In PHASE = SEND the step with CHANNEL's answer is the SEND step, whatever TXBUF holds. -/
theorem txAccess_eq {s : State} {ans : TxAnswer} {rest : List Event} (he : s.events = .tx ans :: rest)
    (hp : s.phase = .send) : txAccess s = .next (sendStep ans (popEvent s)) := by
  have e : decode (.request s.txbuf.toList) = decodeRequest s.txbuf.toList := rfl
  unfold txAccess
  rw [if_pos hp, e]
  cases h : decodeRequest s.txbuf.toList with
  | instr i =>
    dsimp only
    rw [exec_request (encode_of_decodeRequest h), transmit_answered hp rfl he]
  | reject r =>
    dsimp only
    rw [transmit_answered hp rfl he]

/-- Every step answers a next state, one of these. -/
inductive StepTo (s : State) : State → Prop
  | idle (h : s.events = []) : StepTo s s
  | read (a : BitVec 10) (rest : List Event) (h : s.events = .hostRead a :: rest) :
      StepTo s (readAccess a (popEvent s))
  | write (a : BitVec 10) (v : Word) (rest : List Event) (h : s.events = .hostWrite a v :: rest)
      (ha : hostReg a ≠ .cmd) : StepTo s (writeReg (hostReg a) v (popEvent s))
  | command (a : BitVec 10) (c : Word) (rest : List Event) (h : s.events = .hostWrite a c :: rest)
      (ha : hostReg a = .cmd) : StepTo s (issue (commandBody c) (popEvent s))
  | send (ans : TxAnswer) (rest : List Event) (h : s.events = .tx ans :: rest) (hp : s.phase = .send) :
      StepTo s (sendStep ans (popEvent s))
  | stray (ans : TxAnswer) (rest : List Event) (h : s.events = .tx ans :: rest) (hp : s.phase ≠ .send) :
      StepTo s (popEvent s)
  | rx (bs : List Byte) (rest : List Event) (h : s.events = .rx bs :: rest) : StepTo s (receive bs (popEvent s))
  | timeout (rest : List Event) (h : s.events = .rxTimeout :: rest) : StepTo s (timeoutStep (popEvent s))
  | reset (rest : List Event) (h : s.events = .reset :: rest) : StepTo s (resetBlock (popEvent s))

/-- A step always answers a next state. -/
theorem step_total (s : State) : ∃ t, step s = .next t ∧ StepTo s t := by
  unfold step
  split
  · exact ⟨s, rfl, .idle ‹_›⟩
  · rename_i e rest he
    cases e with
    | hostRead a => exact ⟨_, rfl, .read a rest he⟩
    | hostWrite a v =>
      simp only [runEvent, writeAccess]
      split
      · exact ⟨_, writeCmd_eq v _, .command a v rest he ‹_›⟩
      · exact ⟨_, rfl, .write a v rest he ‹_›⟩
    | tx ans =>
      by_cases hp : s.phase = .send
      · exact ⟨_, txAccess_eq he hp, .send ans rest he hp⟩
      · exact ⟨_, by simp [runEvent, txAccess, hp], .stray ans rest he hp⟩
    | rx bs => exact ⟨_, rxAccess_eq bs _, .rx bs rest he⟩
    | rxTimeout => exact ⟨_, rfl, .timeout rest he⟩
    | reset => exact ⟨_, rfl, .reset rest he⟩

/-- The step inversion. -/
theorem step_cases {s t : State} (h : step s = .next t) : StepTo s t := by
  obtain ⟨u, hu, hs⟩ := step_total s
  rw [hu] at h
  injection h with h
  exact h ▸ hs

/-- The body of a CMD value is that of one of the 17 commands, or `raise IllegalCommand()`. -/
theorem commandBody_cases (c : Word) :
    (∃ i, encode i = .command c ∧ commandBody c = bodyOf i) ∨
      ((∀ i, encode i ≠ .command c) ∧ commandBody c = raiseErr .illegalCommand) := by
  unfold commandBody
  cases h : decodeCommand c with
  | instr i => exact .inl ⟨i, encode_of_decodeCommand h, rfl⟩
  | reject r =>
    refine .inr ⟨fun i hi => ?_, rfl⟩
    have : decodeCommand c = .instr i := by
      cases i <;> simp only [encode, Form.command.injEq, reduceCtorEq] at hi <;> subst hi <;> decide
    rw [h] at this
    cases this

/-- The step that takes received bytes, whether or not they form a frame. -/
theorem step_rx {s : State} {bs : List Byte} {rest : List Event} (he : s.events = .rx bs :: rest) :
    step s = .next (receive bs { s with events := rest }) := by
  have e : step s = rxAccess bs (popEvent s) := by unfold step; rw [he]; rfl
  rw [e, rxAccess_eq]
  simp [popEvent, he]

/-- A decoder after its shared frame check keeps what each of its ends keeps. -/
theorem withFrame_keeps_counts (efc : Byte) (k : List Byte → State → State) (s : State)
    (hk : ∀ rx, (k rx s).status.attempts = s.status.attempts ∧ (k rx s).status.ign = s.status.ign ∧
      (k rx s).sent = s.sent) :
    (withFrame efc k s).status.attempts = s.status.attempts ∧ (withFrame efc k s).status.ign = s.status.ign ∧
    (withFrame efc k s).sent = s.sent := by
  unfold withFrame
  split
  · exact ⟨rfl, rfl, rfl⟩
  · exact ⟨rfl, rfl, rfl⟩
  · exact hk _

/-- The body of a command transmits nothing and writes neither ATTEMPTS nor IGN: the prologue has cleared both (R203). -/
theorem commandBody_keeps_counts (c : Word) (s : State) :
    (commandBody c s).status.attempts = s.status.attempts ∧ (commandBody c s).status.ign = s.status.ign ∧
    (commandBody c s).sent = s.sent := by
  rcases commandBody_cases c with ⟨i, -, e⟩ | ⟨-, e⟩ <;> rw [e]
  · cases i <;> simp only [bodyOf] <;> try exact ⟨rfl, rfl, rfl⟩
    · unfold chkCrcBody
      repeat' split
      all_goals exact ⟨rfl, rfl, rfl⟩
    · unfold chkExcBody
      repeat' split
      all_goals exact ⟨rfl, rfl, rfl⟩
    · unfold encRBBody
      split <;> exact ⟨rfl, rfl, rfl⟩
    · unfold decRBBody
      split
      · refine withFrame_keeps_counts _ _ _ fun rx => ?_
        unfold decRBRest
        repeat' split
        all_goals exact ⟨rfl, rfl, rfl⟩
      · exact ⟨rfl, rfl, rfl⟩
    · refine withFrame_keeps_counts _ _ _ fun rx => ?_
      unfold decRRRest
      repeat' split
      all_goals exact ⟨rfl, rfl, rfl⟩
    · refine withFrame_keeps_counts _ _ _ fun rx => ?_
      unfold writeAckRest
      repeat' split
      all_goals exact ⟨rfl, rfl, rfl⟩
    · refine withFrame_keeps_counts _ _ _ fun rx => ?_
      unfold writeAckRest
      repeat' split
      all_goals exact ⟨rfl, rfl, rfl⟩
    · unfold xferBody
      split <;> exact ⟨rfl, rfl, rfl⟩
    · unfold encRBBody
      split <;> exact ⟨rfl, rfl, rfl⟩
  · exact ⟨rfl, rfl, rfl⟩

/-- Every run answers a next state. -/
theorem run_total (n : Nat) (s : State) : ∃ t, Host.Core.run Sys2Proof.core n s = .next t := by
  induction n generalizing s with
  | zero => exact ⟨s, rfl⟩
  | succ n ih =>
    obtain ⟨u, hu, -⟩ := step_total s
    have e : Sys2Proof.core.step s = .next u := hu
    obtain ⟨t, ht⟩ := ih u
    exact ⟨t, by simpa only [Host.Core.run, e] using ht⟩

/-- An invariant that every kind of step keeps holds along every run. -/
theorem run_keeps {P : State → Prop} (hP : ∀ s t, P s → step s = .next t → P t) :
    ∀ (n : Nat) {s t : State}, P s → Host.Core.run Sys2Proof.core n s = .next t → P t
  | 0, s, t, hs, h => by
    injection h with h
    exact h ▸ hs
  | n + 1, s, t, hs, h => by
    obtain ⟨u, hu, -⟩ := step_total s
    have h' : Host.Core.run Sys2Proof.core n u = .next t := by
      have e : Sys2Proof.core.step s = .next u := hu
      simpa only [Host.Core.run, e] using h
    exact run_keeps hP n (hP s u hs hu) h'

end Sys2Proof.Machine
end

