-- ==== Sys2Proof/Machine/Script.lean ====
section
/-! DEFINITION. The host script syntax (30_encoding.md R94, R95) as schedule entries: a statement is its bus
transactions, an `@ch` line its CHANNEL events. -/

namespace Sys2Proof.Machine.Script

/-- `addr(REG)` (10_state.md R22); a reserved word has no name, so none is given for it. -/
def addrOf : HostReg → Option (BitVec 10)
  | .cmd => some 0x000
  | .status => some 0x001
  | .slave => some 0x002
  | .addr => some 0x003
  | .count => some 0x004
  | .value => some 0x005
  | .data => some 0x006
  | .crc => some 0x007
  | .result => some 0x008
  | .exc => some 0x009
  | .txLen => some 0x00A
  | .rxLen => some 0x00B
  | .rxbuf i => if i < 256 then some (BitVec.ofNat 10 (0x100 + i)) else none
  | .txbuf i => if i < 8 then some (BitVec.ofNat 10 (0x200 + i)) else none
  | .coilw k => if k < 125 then some (BitVec.ofNat 10 (0x300 + k)) else none
  | .reserved => none

/-- `wr REG, imm` is `MemWrite(addr(REG), 2, imm)`. -/
def wr (r : HostReg) (v : Word) : List Event :=
  match addrOf r with
  | some a => [.hostWrite a v]
  | none => []

/-- `rd REG` is `MemRead(addr(REG), 2)`. -/
def rd (r : HostReg) : List Event :=
  match addrOf r with
  | some a => [.hostRead a]
  | none => []

/-- `cmd MNEMONIC` is `wr CMD, code(MNEMONIC)`; a wire format is no statement. -/
def cmd (i : Instr) : List Event :=
  match encode i with
  | .command c => wr .cmd c
  | .request _ => []
  | .response _ => []

/-- `poll`: HOST reads STATUS until BUSY = 0, so `n` reads that still find BUSY and one that does not; how many there
are is HOST's and CHANNEL's timing. -/
def poll : Nat → List Event
  | 0 => rd .status
  | n + 1 => rd .status ++ poll n

/-- The writes of `load_rx` from index i on. -/
def loadRxFrom : Nat → List Byte → List Event
  | _, [] => []
  | i, b :: rest => wr (.rxbuf i) (b.setWidth 16) ++ loadRxFrom (i + 1) rest

/-- `load_rx b0, ..., b(n-1)`. -/
def loadRx (bs : List Byte) : List Event :=
  loadRxFrom 0 bs ++ wr .rxLen (BitVec.ofNat 16 bs.length)

/-- `crc_bytes b0, ..., b(n-1)`. -/
def crcBytes (bs : List Byte) : List Event :=
  cmd .crcInit ++ bs.flatMap fun b => wr .data (b.setWidth 16) ++ cmd .crcFeed

/-- `txn_rb s, a, n` without its poll. -/
def txnRB (sl a n : Word) : List Event := wr .slave sl ++ wr .addr a ++ wr .count n ++ cmd .txnRB

/-- `txn_rr s, a` without its poll. -/
def txnRR (sl a : Word) : List Event := wr .slave sl ++ wr .addr a ++ cmd .txnRR

/-- `txn_wb s, a, v` without its poll. -/
def txnWB (sl a v : Word) : List Event := wr .slave sl ++ wr .addr a ++ wr .value v ++ cmd .txnWB

/-- `txn_wr s, a, v` without its poll. -/
def txnWR (sl a v : Word) : List Event := wr .slave sl ++ wr .addr a ++ wr .value v ++ cmd .txnWR

end Sys2Proof.Machine.Script
end

