-- ==== Sys2Proof/Tests/Slice0.lean ====
section
/-! SUPPORT. Tests. Expected values are those of spec/95_test_vectors.md (the vector's id stands in each docstring), or
words written out from the encodings of spec/30_encoding.md. Then the witnesses: for each obligation with hypotheses,
      a
concrete state and operands that meet them. -/

namespace Sys2Proof.Tests

set_option Elab.async false

open Sys2Proof Sys2Proof.Machine

/-! ### helpers -/

/-- The state of an outcome; the model answers nothing but next states. -/
def result : Host.Outcome State Fault Refusal → State
  | .next t => t
  | .fault _ => State.reset
  | .refused _ => State.reset

/-- The cells of a frame loaded from index i on. -/
def cells : Nat → List Byte → List Host.Cell
  | _, [] => []
  | i, b :: rest => (i, b) :: cells (i + 1) rest

/-- `s` with the frame in RXBUF and RX_LEN. -/
def loaded (bs : List Byte) (s : State) : State :=
  { s with rxbuf := cells 0 bs, rxLen := BitVec.ofNat 9 bs.length }

/-- The reset state with the argument registers set. -/
def args (sl : Byte) (a n v : Word) : State := { State.reset with slave := sl, addr := a, count := n, value := v }

/-- `s` with these events next. -/
def withEvents (es : List Event) (s : State) : State := { s with events := es }

/-- A command of `s` has been accepted and is in PHASE = SEND. -/
def sending (o : Op) (fc : Byte) (w : Word) (s : State) : State := startExchange o (putRequest fc w (acceptPrologue
      s))

/-- Its first request has been written, and it waits in PHASE = RECV. -/
def receiving (o : Op) (fc : Byte) (w : Word) (s : State) : State := sendStep .ok (sending o fc w s)

/-- Its second request has been written. -/
def retried (o : Op) (fc : Byte) (w : Word) (s : State) : State := sendStep .ok (timeoutStep (receiving o fc w s))

/-- `StateInv`, checked. -/
def invOk (s : State) : Bool :=
  decide (s.rxLen.toNat ≤ 256) && decide (s.txLen = 0 ∨ s.txLen = 8) &&
  decide (s.status.busy = true ↔ s.phase ≠ .idle) && decide (s.status.err = true ↔ s.status.errKind ≠ .none) &&
  decide (s.status.attempts.toNat ≤ 2) && decide (s.status.done = true → s.status.busy = false) &&
  decide (s.phase = .recv → s.rxLen.toNat < s.explen ∧ (s.rxLen.toNat < 5 ∨ (rxAt s 1).getLsbD 7 = false)) &&
  decide (Memory.wf s.rxbuf) && decide (s.txLen = 8 → requestOk s.txbuf = true) &&
  decide (s.phase ≠ .idle → s.txLen = 8 ∧ s.explen = explenOf s.txbuf) &&
  decide (s.phase ≠ .idle →
    (s.op = .txnRB → countOk s.count = true ∧ s.txbuf = buildReq s.slave 0x01#8 s.addr s.count) ∧
    (s.op = .txnRR → s.txbuf = buildReq s.slave 0x03#8 s.addr 0x0001#16) ∧
    (s.op = .txnWB → s.txbuf = buildReq s.slave 0x05#8 s.addr (coilWord s.value)) ∧
    (s.op = .txnWR → s.txbuf = buildReq s.slave 0x06#8 s.addr s.value)) &&
  decide (s.phase = .send → s.status.attempts.toNat < 2) && decide (s.phase = .recv → 1 ≤ s.status.attempts.toNat) &&
  decide (s.phase ≠ .idle →
    s.status.done = false ∧ s.status.err = false ∧ s.status.rvalid = false ∧ s.status.excv = false ∧ s.exc = 0) &&
  decide (s.status.err = true → s.status.rvalid = false) && decide (s.status.errKind ≠ .nonContiguousBundle)

theorem inv_of_ok {s : State} (h : invOk s = true) : StateInv s := by
  simp only [invOk, Bool.and_eq_true, decide_eq_true_eq] at h
  obtain ⟨⟨⟨⟨⟨⟨⟨⟨⟨⟨⟨⟨⟨⟨⟨h1, h2⟩, h3⟩, h4⟩, h5⟩, h6⟩, h7⟩, h8⟩, h9⟩, h10⟩, h11⟩, h12⟩, h13⟩, h14⟩, h15⟩, h16⟩ := h
  exact {
    rxLen_le := h1, txLen_eq := h2, busy_iff := h3, err_iff := h4, attempts_le := h5, done_idle := h6, recv_open := h7
    rxbuf_wf := h8, request_ok := h9, busy_request := h10, send_attempts := h12, recv_attempts := h13, busy_flags :=
      h14
    err_rvalid := h15, kind_used := h16
    busy_args := fun hp => by
      unfold requestFitsArgs
      cases ho : s.op
      · trivial
      · exact (h11 hp).1 ho
      · exact (h11 hp).2.1 ho
      · exact (h11 hp).2.2.1 ho
      · exact (h11 hp).2.2.2 ho }

/-! ### well-formedness: one ill-formed term for each check -/

theorem test_ill_formed_count_zero :
    wellFormed (.reqReadBits 0x01#8 0x0000#16 0x0000#16 (crc16 (sixBody 0x01#8 0x01#8 0x0000#16 0x0000#16))) = false
      :=
  by decide +kernel

theorem test_ill_formed_count_2001 :
    wellFormed (.reqReadBits 0x01#8 0x0000#16 0x07D1#16 (crc16 (sixBody 0x01#8 0x01#8 0x0000#16 0x07D1#16))) = false
      :=
  by decide +kernel

theorem test_ill_formed_req_read_bits_crc :
    wellFormed (.reqReadBits 0x01#8 0x000D#16 0x000B#16 0x0EED#16) = false :=
  by decide +kernel

theorem test_ill_formed_req_read_register_crc :
    wellFormed (.reqReadRegister 0x01#8 0x0000#16 0x0A85#16) = false :=
  by decide +kernel

theorem test_ill_formed_req_write_bit_on_crc :
    wellFormed (.reqWriteBitOn 0x01#8 0x00AC#16 0x4C1B#16) = false :=
  by decide +kernel

theorem test_ill_formed_req_write_bit_off_crc :
    wellFormed (.reqWriteBitOff 0x01#8 0x00AC#16 0x0DEB#16) = false :=
  by decide +kernel

theorem test_ill_formed_req_write_register_crc :
    wellFormed (.reqWriteRegister 0x01#8 0x0001#16 0x0003#16 0x980B#16) = false :=
  by decide +kernel

theorem test_ill_formed_rsp_read_bits_crc :
    wellFormed (.rspReadBits 0x01#8 [0xCD#8, 0x06#8] 0x6D6E#16) = false :=
  by decide +kernel

theorem test_ill_formed_rsp_read_bits_empty :
    wellFormed (.rspReadBits 0x01#8 [] (crc16 (readBitsBody 0x01#8 []))) = false :=
  by decide +kernel

theorem test_ill_formed_rsp_read_bits_251 :
    wellFormed (.rspReadBits 0x01#8 (List.replicate 251 0x00#8) (crc16 (readBitsBody 0x01#8 (List.replicate 251
      0x00#8)))) = false :=
  by decide +kernel

theorem test_ill_formed_rsp_read_register_crc :
    wellFormed (.rspReadRegister 0x01#8 0x01F4#16 0xB853#16) = false :=
  by decide +kernel

theorem test_ill_formed_rsp_write_bit_echo_crc :
    wellFormed (.rspWriteBitEcho 0x01#8 0x00AC#16 0xFF00#16 0x4C1B#16) = false :=
  by decide +kernel

theorem test_ill_formed_rsp_write_register_echo_crc :
    wellFormed (.rspWriteRegisterEcho 0x01#8 0x0001#16 0x0003#16 0x980B#16) = false :=
  by decide +kernel

theorem test_ill_formed_rsp_exception_crc :
    wellFormed (.rspException 0x01#8 0x06#7 0x02#8 0xC3A1#16) = false :=
  by decide +kernel

/-! ### decoding: the words of 30_encoding.md R81, R87, R88, written out (frames: TK8 to TK12, TD3) -/

theorem test_decode_crcInit : decode (.command 0x0001#16) = .instr .crcInit := by decide +kernel

theorem test_decode_crcFeed : decode (.command 0x0002#16) = .instr .crcFeed := by decide +kernel

theorem test_decode_chkCrc : decode (.command 0x0003#16) = .instr .chkCrc := by decide +kernel

theorem test_decode_chkExc : decode (.command 0x0004#16) = .instr .chkExc := by decide +kernel

theorem test_decode_encRB : decode (.command 0x0010#16) = .instr .encRB := by decide +kernel

theorem test_decode_encRR : decode (.command 0x0011#16) = .instr .encRR := by decide +kernel

theorem test_decode_encWB : decode (.command 0x0012#16) = .instr .encWB := by decide +kernel

theorem test_decode_encWR : decode (.command 0x0013#16) = .instr .encWR := by decide +kernel

theorem test_decode_decRB : decode (.command 0x0020#16) = .instr .decRB := by decide +kernel

theorem test_decode_decRR : decode (.command 0x0021#16) = .instr .decRR := by decide +kernel

theorem test_decode_decWB : decode (.command 0x0022#16) = .instr .decWB := by decide +kernel

theorem test_decode_decWR : decode (.command 0x0023#16) = .instr .decWR := by decide +kernel

theorem test_decode_xfer : decode (.command 0x0030#16) = .instr .xfer := by decide +kernel

theorem test_decode_txnRB : decode (.command 0x0040#16) = .instr .txnRB := by decide +kernel

theorem test_decode_txnRR : decode (.command 0x0041#16) = .instr .txnRR := by decide +kernel

theorem test_decode_txnWB : decode (.command 0x0042#16) = .instr .txnWB := by decide +kernel

theorem test_decode_txnWR : decode (.command 0x0043#16) = .instr .txnWR := by decide +kernel

theorem test_decode_reqReadBits :
    decode (.request [0x01#8, 0x01#8, 0x00#8, 0x0D#8, 0x00#8, 0x0B#8, 0xEC#8, 0x0E#8]) = .instr (.reqReadBits 0x01#8
      0x000D#16 0x000B#16 0x0EEC#16) ∧
    wellFormed (.reqReadBits 0x01#8 0x000D#16 0x000B#16 0x0EEC#16) = true :=
  by decide +kernel

theorem test_decode_reqReadRegister :
    decode (.request [0x01#8, 0x03#8, 0x00#8, 0x00#8, 0x00#8, 0x01#8, 0x84#8, 0x0A#8]) = .instr (.reqReadRegister
      0x01#8 0x0000#16 0x0A84#16) ∧
    wellFormed (.reqReadRegister 0x01#8 0x0000#16 0x0A84#16) = true :=
  by decide +kernel

theorem test_decode_reqWriteBitOn :
    decode (.request [0x01#8, 0x05#8, 0x00#8, 0xAC#8, 0xFF#8, 0x00#8, 0x4C#8, 0x1B#8]) = .instr (.reqWriteBitOn
      0x01#8 0x00AC#16 0x1B4C#16) ∧
    wellFormed (.reqWriteBitOn 0x01#8 0x00AC#16 0x1B4C#16) = true :=
  by decide +kernel

theorem test_decode_reqWriteBitOff :
    decode (.request [0x01#8, 0x05#8, 0x00#8, 0xAC#8, 0x00#8, 0x00#8, 0x0D#8, 0xEB#8]) = .instr (.reqWriteBitOff
      0x01#8 0x00AC#16 0xEB0D#16) ∧
    wellFormed (.reqWriteBitOff 0x01#8 0x00AC#16 0xEB0D#16) = true :=
  by decide +kernel

theorem test_decode_reqWriteRegister :
    decode (.request [0x01#8, 0x06#8, 0x00#8, 0x01#8, 0x00#8, 0x03#8, 0x98#8, 0x0B#8]) = .instr (.reqWriteRegister
      0x01#8 0x0001#16 0x0003#16 0x0B98#16) ∧
    wellFormed (.reqWriteRegister 0x01#8 0x0001#16 0x0003#16 0x0B98#16) = true :=
  by decide +kernel

theorem test_decode_rspReadBits :
    decode (.response [0x01#8, 0x01#8, 0x02#8, 0xCD#8, 0x06#8, 0x6D#8, 0x6E#8]) = .instr (.rspReadBits 0x01#8
      [0xCD#8, 0x06#8] 0x6E6D#16) ∧
    wellFormed (.rspReadBits 0x01#8 [0xCD#8, 0x06#8] 0x6E6D#16) = true :=
  by decide +kernel

theorem test_decode_rspReadRegister :
    decode (.response [0x01#8, 0x03#8, 0x02#8, 0x01#8, 0xF4#8, 0xB8#8, 0x53#8]) = .instr (.rspReadRegister 0x01#8
      0x01F4#16 0x53B8#16) ∧
    wellFormed (.rspReadRegister 0x01#8 0x01F4#16 0x53B8#16) = true :=
  by decide +kernel

theorem test_decode_rspWriteBitEcho :
    decode (.response [0x01#8, 0x05#8, 0x00#8, 0xAC#8, 0xFF#8, 0x00#8, 0x4C#8, 0x1B#8]) = .instr (.rspWriteBitEcho
      0x01#8 0x00AC#16 0xFF00#16 0x1B4C#16) ∧
    wellFormed (.rspWriteBitEcho 0x01#8 0x00AC#16 0xFF00#16 0x1B4C#16) = true :=
  by decide +kernel

theorem test_decode_rspWriteRegisterEcho :
    decode (.response [0x01#8, 0x06#8, 0x00#8, 0x01#8, 0x00#8, 0x03#8, 0x98#8, 0x0B#8]) = .instr
      (.rspWriteRegisterEcho 0x01#8 0x0001#16 0x0003#16 0x0B98#16) ∧
    wellFormed (.rspWriteRegisterEcho 0x01#8 0x0001#16 0x0003#16 0x0B98#16) = true :=
  by decide +kernel

theorem test_decode_rspException :
    decode (.response [0x01#8, 0x86#8, 0x02#8, 0xC3#8, 0xA1#8]) = .instr (.rspException 0x01#8 0x06#7 0x02#8
      0xA1C3#16) ∧
    wellFormed (.rspException 0x01#8 0x06#7 0x02#8 0xA1C3#16) = true :=
  by decide +kernel

/-- TB1 to TB5. -/
theorem test_decode_illegal_codes :
    [0x0000#16, 0x0005#16, 0x0110#16, 0xFFFF#16, 0x0031#16].map (fun c => decode (.command c)) =
      List.replicate 5 (.reject .illegalCommand) :=
  by decide +kernel

theorem test_reject_request_value :
    decode (.request [0x01#8, 0x05#8, 0x00#8, 0xAC#8, 0x00#8, 0x01#8, 0xCC#8, 0x2B#8]) = .reject .wrongFixedField :=
  by decide +kernel

theorem test_reject_request_short :
    decode (.request [0x01#8, 0x05#8, 0x00#8, 0xAC#8, 0xFF#8, 0x24#8, 0x4C#8]) = .reject .wrongLength :=
  by decide +kernel

theorem test_reject_response_fc :
    decode (.response [0x01#8, 0x04#8, 0x02#8, 0x01#8, 0xF4#8, 0xB9#8, 0x27#8]) = .reject .unknownFunction :=
  by decide +kernel

theorem test_reject_response_byte_count :
    decode (.response [0x01#8, 0x01#8, 0x03#8, 0xCD#8, 0x06#8, 0x6D#8, 0x6E#8]) = .reject .wrongLength :=
  by decide +kernel

theorem test_table_word_command :
    decodeTableWord 16 0x0041 = some .txnRR ∧ decodeTableWord 16 0x0141 = none :=
  by decide +kernel

theorem test_table_word_request :
    decodeTableWord 64 0x0101000D000BEC0E = some (.reqReadBits 0x01#8 0x000D#16 0x000B#16 0x0EEC#16) :=
  by decide +kernel

theorem test_table_word_echo :
    decodeTableWord 64 0x010500AC0001CC2B = some (.rspWriteBitEcho 0x01#8 0x00AC#16 0x0001#16 0x2BCC#16) :=
  by decide +kernel

theorem test_table_word_read_register :
    decodeTableWord 56 0x01030201F4B853 = some (.rspReadRegister 0x01#8 0x01F4#16 0x53B8#16) :=
  by decide +kernel

theorem test_table_word_exception :
    decodeTableWord 40 0x018602C3A1 = some (.rspException 0x01#8 0x06#7 0x02#8 0xA1C3#16) :=
  by decide +kernel

theorem test_table_word_read_bits :
    decodeTableWord 8 0x01 = some (.rspReadBits 0x00#8 [] 0x0000#16) :=
  by decide +kernel

theorem test_fetch_command :
    (result (step (State.reset.withFetchWord 16 0x0000))).status.errKind = .illegalCommand ∧ (result (step
      (State.reset.withFetchWord 16 0x0001))).status.done = true :=
  by decide +kernel

theorem test_fetch_request :
    (result (step (State.reset.withFetchWord 64 0x010300000001840A))).sent.map Vector.toList = [[0x01#8, 0x03#8,
      0x00#8, 0x00#8, 0x00#8, 0x01#8, 0x84#8, 0x0A#8]] :=
  by decide +kernel

/-! ### reset and the CRC -/

theorem test_reset_memory_wf : Memory.wf State.reset.rxbuf := by decide +kernel

/-- TB11. -/
theorem test_reset_status : State.reset.status.toWord = 0x0000#16 ∧ State.reset.crc = 0xFFFF#16 := by decide +kernel

/-- TK6. -/
theorem test_crc_check_string :
    crc16 [0x31#8, 0x32#8, 0x33#8, 0x34#8, 0x35#8, 0x36#8, 0x37#8, 0x38#8, 0x39#8] = 0x4B37#16 :=
  by decide +kernel

/-- TK15. -/
theorem test_crc_frame_residue :
    crc16 [0x01#8, 0x03#8, 0x00#8, 0x00#8, 0x00#8, 0x01#8, 0x84#8, 0x0A#8] = 0x0000#16 :=
  by decide +kernel

/-! ### commands -/

/-- TG1. -/
theorem test_crcInit :
    (result (exec .crcInit ({ State.reset with crc := 0x4B37#16 }))).crc = 0xFFFF#16 ∧
    (result (exec .crcInit ({ State.reset with crc := 0x4B37#16 }))).status.toWord = 0x0002#16 :=
  by decide +kernel

/-- TB6: a CMD write while BUSY sets IGN. -/
theorem test_crcInit_busy :
    (result (exec .crcInit (sending .txnRR 0x03#8 0x0001#16 (args 0x01#8 0x0001#16 0 0)))).status.toWord = 0x0801#16
      :=
  by decide +kernel

/-- TG6. -/
theorem test_crcFeed :
    (result (exec .crcFeed ({ State.reset with data := 0x34#8 }))).crc = 0x97BE#16 ∧
    (result (exec .crcFeed ({ State.reset with data := 0x34#8 }))).status.toWord = 0x0002#16 :=
  by decide +kernel

/-- TG8. -/
theorem test_crcFeed_zero :
    (result (exec .crcFeed ({ State.reset with crc := 0x0000#16, data := 0x01#8 }))).crc = 0xC0C1#16 :=
  by decide +kernel

/-- TQ2. -/
theorem test_chkCrc :
    (result (exec .chkCrc (loaded [0x01#8, 0x03#8, 0x02#8, 0x01#8, 0xF5#8, 0xB8#8, 0x53#8]
      State.reset))).status.toWord = 0x0026#16 :=
  by decide +kernel

/-- TQ7. -/
theorem test_chkCrc_swapped :
    (result (exec .chkCrc (loaded [0x01#8, 0x03#8, 0x02#8, 0x01#8, 0xF4#8, 0x53#8, 0xB8#8]
      State.reset))).status.toWord = 0x0026#16 :=
  by decide +kernel

/-- TQ8. -/
theorem test_chkExc :
    (result (exec .chkExc (loaded [0x01#8, 0x86#8, 0x02#8, 0xC3#8, 0xA1#8] State.reset))).status.toWord = 0x0402#16 ∧
    (result (exec .chkExc (loaded [0x01#8, 0x86#8, 0x02#8, 0xC3#8, 0xA1#8] State.reset))).exc = 0x02#8 :=
  by decide +kernel

/-- TQ11. -/
theorem test_chkExc_long :
    (result (exec .chkExc (loaded [0x01#8, 0x83#8, 0x02#8, 0x00#8, 0xF1#8, 0x50#8] State.reset))).status.toWord =
      0x0076#16 :=
  by decide +kernel

/-- TN1. -/
theorem test_encRB :
    (result (exec .encRB (args 0x01#8 0x0013#16 37#16 0))).txbuf.toList = [0x01#8, 0x01#8, 0x00#8, 0x13#8, 0x00#8,
      0x25#8, 0x0C#8, 0x14#8] ∧
    (result (exec .encRB (args 0x01#8 0x0013#16 37#16 0))).txLen = 8 :=
  by decide +kernel

/-- TN7. -/
theorem test_encRB_2001 :
    (result (exec .encRB (args 0x01#8 0x0000#16 2001#16 0))).status.toWord = 0x0016#16 ∧
    (result (exec .encRB (args 0x01#8 0x0000#16 2001#16 0))).txLen = 0 :=
  by decide +kernel

/-- TN11. -/
theorem test_encRR :
    (result (exec .encRR (args 0x00#8 0x0000#16 4660#16 0))).txbuf.toList = [0x00#8, 0x03#8, 0x00#8, 0x00#8, 0x00#8,
      0x01#8, 0x85#8, 0xDB#8] ∧
    (result (exec .encRR (args 0x00#8 0x0000#16 4660#16 0))).status.toWord = 0x0002#16 :=
  by decide +kernel

/-- TN14. -/
theorem test_encWB :
    (result (exec .encWB (args 0x01#8 0x0000#16 0 0x8000#16))).txbuf.toList = [0x01#8, 0x05#8, 0x00#8, 0x00#8,
      0xFF#8, 0x00#8, 0x8C#8, 0x3A#8] :=
  by decide +kernel

/-- TN13. -/
theorem test_encWB_off :
    (result (exec .encWB (args 0x01#8 0x00AC#16 0 0x0000#16))).txbuf.toList = [0x01#8, 0x05#8, 0x00#8, 0xAC#8,
      0x00#8, 0x00#8, 0x0D#8, 0xEB#8] :=
  by decide +kernel

/-- TN18. -/
theorem test_encWR :
    (result (exec .encWR (args 0x01#8 0x0001#16 0 0x01F4#16))).txbuf.toList = [0x01#8, 0x06#8, 0x00#8, 0x01#8,
      0x01#8, 0xF4#8, 0xD8#8, 0x1D#8] :=
  by decide +kernel

/-- TD4. -/
theorem test_decRB :
    (result (exec .decRB (loaded [0x01#8, 0x01#8, 0x02#8, 0xFF#8, 0x07#8, 0xB9#8, 0xCE#8] (args 0 0 11#16
      0)))).status.toWord = 0x000A#16 ∧
    (result (exec .decRB (loaded [0x01#8, 0x01#8, 0x02#8, 0xFF#8, 0x07#8, 0xB9#8, 0xCE#8] (args 0 0 11#16 0)))).coil
      = 0x07FF#2000 :=
  by decide +kernel

/-- TD2. -/
theorem test_decRB_padding :
    (result (exec .decRB (loaded [0x01#8, 0x01#8, 0x01#8, 0xF3#8, 0x11#8, 0xCD#8] (args 0 0 5#16 0)))).coil =
      0x0013#2000 :=
  by decide +kernel

/-- TD20. -/
theorem test_decRR :
    (result (exec .decRR (loaded [0x01#8, 0x03#8, 0x02#8, 0x01#8, 0xF4#8, 0xB8#8, 0x53#8]
      State.reset))).status.toWord = 0x000A#16 ∧
    (result (exec .decRR (loaded [0x01#8, 0x03#8, 0x02#8, 0x01#8, 0xF4#8, 0xB8#8, 0x53#8] State.reset))).result =
      0x01F4#16 :=
  by decide +kernel

/-- TD24. -/
theorem test_decRR_length :
    (result (exec .decRR (loaded [0x01#8, 0x03#8, 0x02#8, 0x01#8, 0xF4#8, 0x00#8, 0x53#8, 0x72#8]
      State.reset))).status.toWord = 0x0076#16 ∧
    (result (exec .decRR (loaded [0x01#8, 0x03#8, 0x02#8, 0x01#8, 0xF4#8, 0x00#8, 0x53#8, 0x72#8]
      State.reset))).result = 0x0000#16 :=
  by decide +kernel

/-- TD38. -/
theorem test_decWB :
    (result (exec .decWB (loaded [0x01#8, 0x05#8, 0x00#8, 0xAC#8, 0xFF#8, 0x00#8, 0x4C#8, 0x1B#8] (args 0 0x00AC#16 0
      0x8000#16)))).status.toWord = 0x0002#16 :=
  by decide +kernel

/-- TD34. -/
theorem test_decWB_value :
    (result (exec .decWB (loaded [0x01#8, 0x05#8, 0x00#8, 0xAC#8, 0x00#8, 0x01#8, 0xCC#8, 0x2B#8] (args 0 0x00AC#16 0
      0x0001#16)))).status.toWord = 0x0036#16 :=
  by decide +kernel

/-- TD46: a foreign slave address. -/
theorem test_decWR :
    (result (exec .decWR (loaded [0x11#8, 0x06#8, 0x00#8, 0x01#8, 0x00#8, 0x03#8, 0x9A#8, 0x9B#8] (args 0 0x0001#16 0
      0x0003#16)))).status.toWord = 0x0002#16 :=
  by decide +kernel

/-- TD41. -/
theorem test_decWR_address :
    (result (exec .decWR (loaded [0x01#8, 0x06#8, 0x00#8, 0x02#8, 0x00#8, 0x03#8, 0x68#8, 0x0B#8] (args 0 0x0001#16 0
      0x0003#16)))).status.toWord = 0x0036#16 :=
  by decide +kernel

/-- TX2. -/
theorem test_xfer_nothing_encoded :
    (result (exec .xfer (State.reset))).status.toWord = 0x0016#16 ∧
    (result (exec .xfer (State.reset))).phase = .idle :=
  by decide +kernel

/-- TX1, its acceptance. -/
theorem test_xfer :
    (result (exec .xfer (putRequest 0x03#8 0x0001#16 (args 0x01#8 0x0000#16 0 0)))).status.toWord = 0x0001#16 ∧
    (result (exec .xfer (putRequest 0x03#8 0x0001#16 (args 0x01#8 0x0000#16 0 0)))).phase = .send ∧
    (result (exec .xfer (putRequest 0x03#8 0x0001#16 (args 0x01#8 0x0000#16 0 0)))).explen = 7 :=
  by decide +kernel

/-- TX23, its acceptance. -/
theorem test_txnRB :
    (result (exec .txnRB (args 0x01#8 0x0000#16 2000#16 0))).explen = 255 ∧
    (result (exec .txnRB (args 0x01#8 0x0000#16 2000#16 0))).txbuf.toList = [0x01#8, 0x01#8, 0x00#8, 0x00#8, 0x07#8,
      0xD0#8, 0x3F#8, 0xA6#8] :=
  by decide +kernel

/-- TX16. -/
theorem test_txnRB_zero :
    (result (exec .txnRB (args 0x01#8 0x0000#16 0 0))).status.toWord = 0x0016#16 ∧
    (result (exec .txnRB (args 0x01#8 0x0000#16 0 0))).txLen = 0 ∧
    (result (exec .txnRB (args 0x01#8 0x0000#16 0 0))).phase = .idle :=
  by decide +kernel

/-- P2, its acceptance. -/
theorem test_txnRR :
    (result (exec .txnRR (args 0x01#8 0x0001#16 0 0))).status.toWord = 0x0001#16 ∧
    (result (exec .txnRR (args 0x01#8 0x0001#16 0 0))).txbuf.toList = [0x01#8, 0x03#8, 0x00#8, 0x01#8, 0x00#8,
      0x01#8, 0xD5#8, 0xCA#8] :=
  by decide +kernel

/-- TX17, its acceptance. -/
theorem test_txnWB :
    (result (exec .txnWB (args 0x01#8 0x00AC#16 0 0x0001#16))).status.toWord = 0x0001#16 ∧
    (result (exec .txnWB (args 0x01#8 0x00AC#16 0 0x0001#16))).txbuf.toList = [0x01#8, 0x05#8, 0x00#8, 0xAC#8,
      0xFF#8, 0x00#8, 0x4C#8, 0x1B#8] :=
  by decide +kernel

/-- TX20, its acceptance. -/
theorem test_txnWR :
    (result (exec .txnWR (args 0x01#8 0x0001#16 0 0x0003#16))).status.toWord = 0x0001#16 ∧
    (result (exec .txnWR (args 0x01#8 0x0001#16 0 0x0003#16))).txbuf.toList = [0x01#8, 0x06#8, 0x00#8, 0x01#8,
      0x00#8, 0x03#8, 0x98#8, 0x0B#8] :=
  by decide +kernel

/-! ### wire formats -/

/-- TX15, its SEND step. -/
theorem test_reqReadBits :
    (result (exec (.reqReadBits 0x01#8 0x000D#16 0x000B#16 0x0EEC#16) (withEvents [.tx .ok] (sending .txnRB 0x01#8
      0x000B#16 (args 0x01#8 0x000D#16 0x000B#16 0))))).status.toWord = 0x0101#16 ∧
    (result (exec (.reqReadBits 0x01#8 0x000D#16 0x000B#16 0x0EEC#16) (withEvents [.tx .ok] (sending .txnRB 0x01#8
      0x000B#16 (args 0x01#8 0x000D#16 0x000B#16 0))))).phase = .recv ∧
    (result (exec (.reqReadBits 0x01#8 0x000D#16 0x000B#16 0x0EEC#16) (withEvents [.tx .ok] (sending .txnRB 0x01#8
      0x000B#16 (args 0x01#8 0x000D#16 0x000B#16 0))))).sent.length = 1 :=
  by decide +kernel

/-- TX4. -/
theorem test_reqReadRegister :
    (result (exec (.reqReadRegister 0x01#8 0x0001#16 0xCAD5#16) (withEvents [.tx .fail] (sending .txnRR 0x03#8
      0x0001#16 (args 0x01#8 0x0001#16 0 0))))).status.toWord = 0x0186#16 ∧
    (result (exec (.reqReadRegister 0x01#8 0x0001#16 0xCAD5#16) (withEvents [.tx .fail] (sending .txnRR 0x03#8
      0x0001#16 (args 0x01#8 0x0001#16 0 0))))).phase = .idle ∧
    (result (exec (.reqReadRegister 0x01#8 0x0001#16 0xCAD5#16) (withEvents [.tx .fail] (sending .txnRR 0x03#8
      0x0001#16 (args 0x01#8 0x0001#16 0 0))))).sent.length = 1 :=
  by decide +kernel

/-- TX17, its SEND step. -/
theorem test_reqWriteBitOn :
    (result (exec (.reqWriteBitOn 0x01#8 0x00AC#16 0x1B4C#16) (withEvents [.tx .ok] (sending .txnWB 0x05#8 0xFF00#16
      (args 0x01#8 0x00AC#16 0 0x0001#16))))).status.toWord = 0x0101#16 ∧
    (result (exec (.reqWriteBitOn 0x01#8 0x00AC#16 0x1B4C#16) (withEvents [.tx .ok] (sending .txnWB 0x05#8 0xFF00#16
      (args 0x01#8 0x00AC#16 0 0x0001#16))))).phase = .recv ∧
    (result (exec (.reqWriteBitOn 0x01#8 0x00AC#16 0x1B4C#16) (withEvents [.tx .ok] (sending .txnWB 0x05#8 0xFF00#16
      (args 0x01#8 0x00AC#16 0 0x0001#16))))).sent.length = 1 :=
  by decide +kernel

/-- TN13 sent. -/
theorem test_reqWriteBitOff :
    (result (exec (.reqWriteBitOff 0x01#8 0x00AC#16 0xEB0D#16) (withEvents [.tx .ok] (sending .txnWB 0x05#8 0x0000#16
      (args 0x01#8 0x00AC#16 0 0x0000#16))))).status.toWord = 0x0101#16 ∧
    (result (exec (.reqWriteBitOff 0x01#8 0x00AC#16 0xEB0D#16) (withEvents [.tx .ok] (sending .txnWB 0x05#8 0x0000#16
      (args 0x01#8 0x00AC#16 0 0x0000#16))))).phase = .recv ∧
    (result (exec (.reqWriteBitOff 0x01#8 0x00AC#16 0xEB0D#16) (withEvents [.tx .ok] (sending .txnWB 0x05#8 0x0000#16
      (args 0x01#8 0x00AC#16 0 0x0000#16))))).sent.length = 1 :=
  by decide +kernel

/-- TX20, its SEND step. -/
theorem test_reqWriteRegister :
    (result (exec (.reqWriteRegister 0x01#8 0x0001#16 0x0003#16 0x0B98#16) (withEvents [.tx .ok] (sending .txnWR
      0x06#8 0x0003#16 (args 0x01#8 0x0001#16 0 0x0003#16))))).status.toWord = 0x0101#16 ∧
    (result (exec (.reqWriteRegister 0x01#8 0x0001#16 0x0003#16 0x0B98#16) (withEvents [.tx .ok] (sending .txnWR
      0x06#8 0x0003#16 (args 0x01#8 0x0001#16 0 0x0003#16))))).phase = .recv ∧
    (result (exec (.reqWriteRegister 0x01#8 0x0001#16 0x0003#16 0x0B98#16) (withEvents [.tx .ok] (sending .txnWR
      0x06#8 0x0003#16 (args 0x01#8 0x0001#16 0 0x0003#16))))).sent.length = 1 :=
  by decide +kernel

/-- TX15. -/
theorem test_rspReadBits :
    (result (exec (.rspReadBits 0x01#8 [0xCD#8, 0x06#8] 0x6E6D#16) (receiving .txnRB 0x01#8 0x000B#16 (args 0x01#8
      0x000D#16 0x000B#16 0)))).status.toWord = 0x010A#16 ∧
    (result (exec (.rspReadBits 0x01#8 [0xCD#8, 0x06#8] 0x6E6D#16) (receiving .txnRB 0x01#8 0x000B#16 (args 0x01#8
      0x000D#16 0x000B#16 0)))).coil = 0x06CD#2000 :=
  by decide +kernel

/-- TX3. -/
theorem test_rspReadRegister :
    (result (exec (.rspReadRegister 0x01#8 0x01F4#16 0x53B8#16) (receiving .txnRR 0x03#8 0x0001#16 (args 0x01#8
      0x0001#16 0 0)))).status.toWord = 0x010A#16 ∧
    (result (exec (.rspReadRegister 0x01#8 0x01F4#16 0x53B8#16) (receiving .txnRR 0x03#8 0x0001#16 (args 0x01#8
      0x0001#16 0 0)))).result = 0x01F4#16 ∧
    (result (exec (.rspReadRegister 0x01#8 0x01F4#16 0x53B8#16) (receiving .txnRR 0x03#8 0x0001#16 (args 0x01#8
      0x0001#16 0 0)))).rxLen = 7 :=
  by decide +kernel

/-- TX11. -/
theorem test_rspReadRegister_bad_crc :
    (result (exec (.rspReadRegister 0x01#8 0x01F4#16 0x54B8#16) (receiving .txnRR 0x03#8 0x0001#16 (args 0x01#8
      0x0001#16 0 0)))).status.toWord = 0x0126#16 :=
  by decide +kernel

/-- TX17. -/
theorem test_rspWriteBitEcho :
    (result (exec (.rspWriteBitEcho 0x01#8 0x00AC#16 0xFF00#16 0x1B4C#16) (receiving .txnWB 0x05#8 0xFF00#16 (args
      0x01#8 0x00AC#16 0 0x0001#16)))).status.toWord = 0x0102#16 :=
  by decide +kernel

/-- TX18. -/
theorem test_rspWriteBitEcho_other :
    (result (exec (.rspWriteBitEcho 0x01#8 0x00AC#16 0x0000#16 0xEB0D#16) (receiving .txnWB 0x05#8 0xFF00#16 (args
      0x01#8 0x00AC#16 0 0x0001#16)))).status.toWord = 0x0136#16 :=
  by decide +kernel

/-- TX21. -/
theorem test_rspWriteRegisterEcho :
    (result (exec (.rspWriteRegisterEcho 0x01#8 0x0001#16 0x0003#16 0x0B98#16) (retried .txnWR 0x06#8 0x0003#16 (args
      0x01#8 0x0001#16 0 0x0003#16)))).status.toWord = 0x0202#16 :=
  by decide +kernel

/-- TX19. -/
theorem test_rspException :
    (result (exec (.rspException 0x01#8 0x06#7 0x02#8 0xA1C3#16) (receiving .txnWR 0x06#8 0x0003#16 (args 0x01#8
      0x0001#16 0 0x0003#16)))).status.toWord = 0x0546#16 ∧
    (result (exec (.rspException 0x01#8 0x06#7 0x02#8 0xA1C3#16) (receiving .txnWR 0x06#8 0x0003#16 (args 0x01#8
      0x0001#16 0 0x0003#16)))).exc = 0x02#8 ∧
    (result (exec (.rspException 0x01#8 0x06#7 0x02#8 0xA1C3#16) (receiving .txnWR 0x06#8 0x0003#16 (args 0x01#8
      0x0001#16 0 0x0003#16)))).rxLen = 5 :=
  by decide +kernel

/-- TX23. -/
theorem test_rspException_long_expected :
    (result (exec (.rspException 0x01#8 0x01#7 0x02#8 0x91C1#16) (receiving .txnRB 0x01#8 2000#16 (args 0x01#8
      0x0000#16 2000#16 0)))).status.toWord = 0x0546#16 :=
  by decide +kernel

/-! ### events -/

/-- TB10. -/
theorem test_read_unused_bits :
    (result (step (withEvents [.hostRead 0x002] ({ State.reset with slave := 0x34#8 })))).reads = [0x0034#16] :=
  by decide +kernel

/-- TB10. -/
theorem test_write_narrow :
    (result (step (withEvents [.hostWrite 0x006 0xABCD#16] (State.reset)))).data = 0xCD#8 :=
  by decide +kernel

/-- TB8. -/
theorem test_rx_len_257 :
    (result (step (withEvents [.hostWrite 0x00B 257#16] (State.reset)))).rxLen = 0 ∧
    (result (step (withEvents [.hostWrite 0x00B 257#16] (State.reset)))).status.toWord = 0x0000#16 :=
  by decide +kernel

/-- TB8. -/
theorem test_rx_len_256 :
    (result (step (withEvents [.hostWrite 0x00B 256#16] (State.reset)))).rxLen.toNat = 256 :=
  by decide +kernel

/-- TB9. -/
theorem test_write_read_only :
    (result (step (withEvents [.hostWrite 0x007 0x1234#16] (State.reset)))).crc = 0xFFFF#16 ∧
    (result (step (withEvents [.hostWrite 0x007 0x1234#16] (State.reset)))).status.toWord = 0x0000#16 :=
  by decide +kernel

/-- TB6. -/
theorem test_write_busy :
    (result (step (withEvents [.hostWrite 0x003 0x0055#16] (sending .txnRR 0x03#8 0x0001#16 (args 0x01#8 0x0001#16 0
      0))))).addr = 0x0001#16 ∧
    (result (step (withEvents [.hostWrite 0x003 0x0055#16] (sending .txnRR 0x03#8 0x0001#16 (args 0x01#8 0x0001#16 0
      0))))).status.toWord = 0x0801#16 :=
  by decide +kernel

/-- TB3. -/
theorem test_illegal_command :
    (result (step (withEvents [.hostWrite 0x000 0x0110#16] (State.reset)))).status.toWord = 0x0096#16 :=
  by decide +kernel

/-- TX5. -/
theorem test_timeout_last :
    (result (step (withEvents [.rxTimeout] (retried .txnRR 0x03#8 0x0001#16 (args 0x01#8 0x0001#16 0
      0))))).status.toWord = 0x0256#16 :=
  by decide +kernel

/-- TX22. -/
theorem test_byte_still_running :
    (result (step (withEvents [.rx [0x01#8, 0x03#8, 0x02#8, 0x01#8, 0xF4#8, 0xB8#8]] (receiving .txnRR 0x03#8
      0x0001#16 (args 0x01#8 0x0001#16 0 0))))).status.toWord = 0x0101#16 ∧
    (result (step (withEvents [.rx [0x01#8, 0x03#8, 0x02#8, 0x01#8, 0xF4#8, 0xB8#8]] (receiving .txnRR 0x03#8
      0x0001#16 (args 0x01#8 0x0001#16 0 0))))).rxLen = 6 ∧
    (result (step (withEvents [.rx [0x01#8, 0x03#8, 0x02#8, 0x01#8, 0xF4#8, 0xB8#8]] (receiving .txnRR 0x03#8
      0x0001#16 (args 0x01#8 0x0001#16 0 0))))).phase = .recv :=
  by decide +kernel

/-- TX14. -/
theorem test_late_byte :
    (result (step (withEvents [.rx [0x01#8, 0x03#8, 0x02#8, 0x01#8, 0xF4#8, 0xB8#8, 0x53#8, 0x77#8]] (receiving
      .txnRR 0x03#8 0x0001#16 (args 0x01#8 0x0001#16 0 0))))).status.toWord = 0x010A#16 ∧
    (result (step (withEvents [.rx [0x01#8, 0x03#8, 0x02#8, 0x01#8, 0xF4#8, 0xB8#8, 0x53#8, 0x77#8]] (receiving
      .txnRR 0x03#8 0x0001#16 (args 0x01#8 0x0001#16 0 0))))).rxLen = 7 :=
  by decide +kernel

/-- TB12. -/
theorem test_reset_in_exchange :
    (result (step (withEvents [.reset] (receiving .txnRR 0x03#8 0x0001#16 (args 0x01#8 0x0001#16 0
      0))))).status.toWord = 0x0000#16 ∧
    (result (step (withEvents [.reset] (receiving .txnRR 0x03#8 0x0001#16 (args 0x01#8 0x0001#16 0 0))))).phase =
      .idle ∧
    (result (step (withEvents [.reset] (receiving .txnRR 0x03#8 0x0001#16 (args 0x01#8 0x0001#16 0 0))))).slave = 0 :=
  by decide +kernel

/-- 30_encoding.md R95. -/
theorem test_script_load_rx :
    Script.loadRx [0x01#8, 0x03#8] = [.hostWrite 0x100 0x0001#16, .hostWrite 0x101 0x0003#16, .hostWrite 0x00B
      0x0002#16] :=
  by decide +kernel

/-- P2. -/
theorem test_script_txn_rr :
    Script.txnRR 1 1 = [.hostWrite 0x002 0x0001#16, .hostWrite 0x003 0x0001#16, .hostWrite 0x000 0x0041#16] :=
  by decide +kernel

/-! ### witnesses -/

/-- A TXN_RR that waits for its response. -/
def rr : State := receiving .txnRR 0x03#8 0x0001#16 (args 0x01#8 0x0001#16 0 0)

/-- A TXN_RB of 11 coils that waits for its response. -/
def rb : State := receiving .txnRB 0x01#8 0x000B#16 (args 0x01#8 0x000D#16 0x000B#16 0)

/-- A TXN_WB that waits for its echo. -/
def wb : State := receiving .txnWB 0x05#8 0xFF00#16 (args 0x01#8 0x00AC#16 0 0x0001#16)

/-- A TXN_WR that waits for its echo. -/
def wr : State := receiving .txnWR 0x06#8 0x0003#16 (args 0x01#8 0x0001#16 0 0x0003#16)

/-- An XFER that waits for a response of the request with function code `fc`. -/
def xf (fc : Byte) (w : Word) : State := receiving .xfer fc w (args 0x01#8 0x0001#16 0 0)

theorem inv_rr : StateInv rr := inv_of_ok (by decide +kernel)

theorem inv_rb : StateInv rb := inv_of_ok (by decide +kernel)

theorem inv_wb : StateInv wb := inv_of_ok (by decide +kernel)

theorem inv_wr : StateInv wr := inv_of_ok (by decide +kernel)

theorem inv_retried : StateInv (retried .txnRR 0x03#8 0x0001#16 (args 0x01#8 0x0001#16 0 0)) :=
  inv_of_ok (by decide +kernel)

theorem step_result (s : State) : step s = .next (result (step s)) := by
  obtain ⟨t, ht, -⟩ := step_total s
  rw [ht]
  rfl

theorem exec_result (i : Instr) (s : State) : exec i s = .next (result (exec i s)) := by
  cases i <;> rfl

/-- A HOST write of v to word a comes next. -/
def writes (a : BitVec 10) (v : Word) (s : State) : State := withEvents [.hostWrite a v] s

theorem witness_ResetStateIsAsTabled :
    State.reset = State.afterReset 0 [] [] [] ∧ (0 < 2000 ∧ 1999 < 2000) ∧ (124 < 125) ∧ (255 < 256) ∧ 7 < 8 :=
  ⟨rfl, by decide⟩

theorem witness_ResetEndsAnExchange :
    (withEvents [.reset] rr).events = .reset :: [] ∧ rr.phase = .recv := ⟨rfl, rfl⟩

theorem witness_EveryStepKeepsInvariant :
    StateInv (withEvents [.rx [0x01#8]] rr) ∧
      step (withEvents [.rx [0x01#8]] rr) = .next (result (step (withEvents [.rx [0x01#8]] rr))) ∧ rr.phase = .recv :=
  ⟨inv_of_ok (by decide +kernel), step_result _, by decide +kernel⟩

theorem witness_DecodeOfEncodeIsTheInstruction :
    wellFormed .txnWR = true ∧
    wellFormed (.reqReadBits 0x01#8 0x000D#16 0x000B#16 0x0EEC#16) = true ∧
      wellFormed (.rspReadBits 0x01#8 [0x01#8] 0x4890#16) = true := by
  decide +kernel

set_option maxRecDepth 100000 in
theorem witness_DecodeOfEncodeIsTheInstruction_longest :
    wellFormed (.rspReadBits 0x01#8 (List.replicate 250 0x00#8)
      (crc16 (readBitsBody 0x01#8 (List.replicate 250 0x00#8)))) = true := by
  decide +kernel

theorem witness_StepRunsTheDecodedInstruction :
    (writes 0x000 0x0001#16 State.reset).events = .hostWrite 0x000#10 0x0001#16 :: [] ∧
    decode (.command 0x0001#16) = .instr .crcInit ∧
    (withEvents [.rx [0x01#8, 0x86#8, 0x02#8, 0xC3#8, 0xA1#8]] wr).events =
      .rx [0x01#8, 0x86#8, 0x02#8, 0xC3#8, 0xA1#8] :: [] ∧
    decode (.response [0x01#8, 0x86#8, 0x02#8, 0xC3#8, 0xA1#8]) =
      .instr (.rspException 0x01#8 0x06#7 0x02#8 0xA1C3#16) := by
  decide +kernel

/-- A TXN_RR whose request is to be written next. -/
def rrSend : State := sending .txnRR 0x03#8 0x0001#16 (args 0x01#8 0x0001#16 0 0)

theorem witness_StepRunsTheDecodedInstruction_request :
    (withEvents [.tx .ok] rrSend).events = .tx .ok :: [] ∧ rrSend.phase = .send ∧
    decode (.request rrSend.txbuf.toList) = .instr (.reqReadRegister 0x01#8 0x0001#16 0xCAD5#16) := by
  decide +kernel

theorem witness_CommandDecodeIsTotal :
    (writes 0x000 0x0011#16 State.reset).events = .hostWrite 0x000#10 0x0011#16 :: [] ∧
    State.reset.status.busy = false ∧ encode .encRR = .command 0x0011#16 := by
  decide +kernel

theorem witness_CommandDecodeIsTotal_illegal : ∀ i, encode i ≠ .command 0x0110#16 := by
  intro i
  cases i <;> simp [encode]

theorem witness_HostReadHasNoSideEffect :
    (withEvents [.hostRead 0x000#10] rr).events = .hostRead 0x000#10 :: [] ∧
    (withEvents [.hostRead 0x3FF#10] rr).events = .hostRead 0x3FF#10 :: [] := ⟨rfl, rfl⟩

/-- The reserved clause and the others do not meet at the ends of its ranges. -/
theorem witness_ReadMapIsAsTabled :
    [0x00C#10, 0x0FF, 0x208, 0x2FF, 0x37D, 0x3FF].map hostReg = List.replicate 6 .reserved ∧
    [0x00B#10, 0x100, 0x1FF, 0x200, 0x207, 0x300, 0x37C].map hostReg =
      [.rxLen, .rxbuf 0, .rxbuf 255, .txbuf 0, .txbuf 7, .coilw 0, .coilw 124] := by
  decide +kernel

theorem witness_ProtectedWriteStoresUsedBits :
    State.reset.status.busy = false ∧
    [0x002#10, 0x003, 0x004, 0x005, 0x006, 0x00B, 0x100, 0x1FF].map (fun a => (writes a 0x0100#16
      State.reset).events) =
      [0x002#10, 0x003, 0x004, 0x005, 0x006, 0x00B, 0x100, 0x1FF].map (fun a => [Event.hostWrite a 0x0100#16]) ∧
    (0x0100#16).toNat ≤ 256 ∧ 256 < (0x0101#16).toNat := by
  decide +kernel

theorem witness_LargeRxLenWriteWhileBusySetsIgn :
    (writes 0x00B 0x0101#16 rr).events = .hostWrite 0x00B#10 0x0101#16 :: [] ∧ rr.status.busy = true ∧
    256 < (0x0101#16).toNat := by
  decide +kernel

theorem witness_IgnoredWritesSetIgn :
    rr.status.busy = true ∧ State.reset.status.busy = false ∧
    [0x000#10, 0x002, 0x006, 0x00B, 0x100, 0x1FF].map (fun a => (hostReg a = .cmd || (hostReg a).isProtected)) =
      List.replicate 6 true ∧
    [0x001#10, 0x007, 0x00A, 0x00C, 0x0FF, 0x200, 0x3FF].map (fun a => (hostReg a = .cmd || (hostReg a).isProtected))
      =
      List.replicate 7 false := by
  decide +kernel

/-- IGN stands, from an argument write while BUSY, and the exchange has ended. -/
def ignored : State := timeoutStep (result (step (writes 0x003 0x0055#16
  (retried .txnRR 0x03#8 0x0001#16 (args 0x01#8 0x0001#16 0 0)))))

theorem witness_IgnRisesByIgnoredWritesOnly :
    rr.status.ign = false ∧
    (∀ a ∈ [0x000, 0x002, 0x006, 0x00B, 0x100, 0x1FF],
      (result (step (writes (BitVec.ofNat 10 a) 0x0001#16 rr))).status.ign = true) ∧
    ignored.status.ign = true ∧ ignored.status.busy = false ∧
    (result (step (writes 0x000 0x0001#16 ignored))).status.ign = false ∧
    (result (step (withEvents [.reset] ignored))).status.ign = false ∧
    (result (step (writes 0x003 0x0001#16 State.reset))).status.ign = false ∧
    (result (step (writes 0x00B 0x0101#16 State.reset))).status.ign = false := by
  decide +kernel

theorem witness_CrcInitSetsInitialValue : State.reset.status.busy = false ∧ rr.status.busy = true := by
  decide +kernel

theorem witness_CrcFeedFoldsData : State.reset.status.busy = false := rfl

theorem witness_SingleBitFlipIsDetected :
    4 ≤ [0x01#8, 0x03#8, 0x40#8, 0x21#8].length ∧ crcOk [0x01#8, 0x03#8, 0x40#8, 0x21#8] = true ∧
    0 < [0x01#8, 0x03#8, 0x40#8, 0x21#8].length ∧ 3 < [0x01#8, 0x03#8, 0x40#8, 0x21#8].length ∧ 7 < 8 := by
  decide +kernel

/-- A state whose CRC each of the three changes. -/
def crcSeven : State := { State.reset with crc := 0x0007#16 }

theorem witness_CrcIsWrittenByItsCommandsOnly :
    (result (step (withEvents [.reset] crcSeven))).crc ≠ crcSeven.crc ∧
    (result (step (writes 0x000 0x0001#16 crcSeven))).crc ≠ crcSeven.crc ∧
    (result (step (writes 0x000 0x0002#16 crcSeven))).crc ≠ crcSeven.crc := by
  decide +kernel

theorem witness_NothingElseReadsCrc :
    Instr.encRR ≠ .crcFeed ∧ exec .encRR State.reset = .next (result (exec .encRR State.reset)) :=
  ⟨by decide, exec_result _ _⟩

theorem witness_EncRbBuildsReadCoils :
    State.reset.status.busy = false ∧
    [0x0001#16, 0x07D0#16].map countOk = [true, true] ∧ [0x0000#16, 0x07D1#16].map countOk = [false, false] := by
  decide +kernel

theorem witness_EncRrBuildsReadRegister : State.reset.status.busy = false := rfl

theorem witness_EncWbBuildsWriteCoil :
    (args 0x01#8 0 0 0x8000#16).status.busy = false ∧ (args 0x01#8 0 0 0x8000#16).value ≠ 0 ∧
    (args 0x01#8 0 0 0).value = 0 := by
  decide +kernel

theorem witness_EncWrBuildsWriteRegister : State.reset.status.busy = false := rfl

theorem witness_TxbufIsWrittenByEncodersOnly :
    (result (step (writes 0x000 0x0011#16 State.reset))).txLen ≠ State.reset.txLen ∧
    (result (step (withEvents [.reset] rr))).txLen ≠ rr.txLen := by
  decide +kernel

/-- TQ3, TQ13 and TQ5: too short, a wrong CRC, four bytes with a right one. -/
theorem witness_ChkCrcReportsTheCheck :
    (loaded [0x01#8, 0x03#8, 0x02#8] State.reset).rxLen.toNat < 4 ∧
    crcOk (rxFrame (loaded [0x01#8, 0x86#8, 0x02#8, 0xC3#8, 0xA2#8] State.reset)) = false ∧
    4 ≤ (loaded [0x01#8, 0x03#8, 0x40#8, 0x21#8] State.reset).rxLen.toNat ∧
    crcOk (rxFrame (loaded [0x01#8, 0x03#8, 0x40#8, 0x21#8] State.reset)) = true := by
  decide +kernel

/-- TQ5, TQ12 and TQ8: no exception, one of four bytes, one of five. -/
theorem witness_ChkExcReportsTheOption :
    (rxAt (loaded [0x01#8, 0x03#8, 0x40#8, 0x21#8] State.reset) 1).toNat < 0x80 ∧
    crcOk (rxFrame (loaded [0x01#8, 0x83#8, 0x41#8, 0x81#8] State.reset)) = true ∧
    0x80 ≤ (rxAt (loaded [0x01#8, 0x83#8, 0x41#8, 0x81#8] State.reset) 1).toNat ∧
    (loaded [0x01#8, 0x83#8, 0x41#8, 0x81#8] State.reset).rxLen ≠ 5 ∧
    crcOk (rxFrame (loaded [0x01#8, 0x86#8, 0x02#8, 0xC3#8, 0xA1#8] State.reset)) = true ∧
    (loaded [0x01#8, 0x86#8, 0x02#8, 0xC3#8, 0xA1#8] State.reset).rxLen = 5 := by
  decide +kernel

/-- TD7: one coil. -/
def oneCoil : State := loaded [0x01#8, 0x01#8, 0x01#8, 0x01#8, 0x90#8, 0x48#8] (args 0 0 1#16 0)

/-- 2000 coils, all 0. -/
def allCoils : State :=
  loaded (frameOf (readBitsBody 0x01#8 (List.replicate 250 0x00#8))
    (crc16 (readBitsBody 0x01#8 (List.replicate 250 0x00#8)))) (args 0 0 2000#16 0)

theorem witness_DecRbUnpacksOrFails_least :
    oneCoil.status.busy = false ∧ oneCoil.count.toNat = 1 ∧ 1 = (oneCoil.count.toNat + 7) / 8 ∧
    oneCoil.rxLen.toNat = 5 + 1 ∧ crcOk (rxFrame oneCoil) = true ∧ rxAt oneCoil 1 = 0x01#8 ∧
    (rxAt oneCoil 2).toNat = 1 := by
  decide +kernel

set_option maxRecDepth 100000 in
theorem witness_DecRbUnpacksOrFails_most :
    allCoils.status.busy = false ∧ allCoils.count.toNat = 2000 ∧ 250 = (allCoils.count.toNat + 7) / 8 ∧
    allCoils.rxLen.toNat = 5 + 250 ∧ crcOk (rxFrame allCoils) = true ∧ rxAt allCoils 1 = 0x01#8 ∧
    (rxAt allCoils 2).toNat = 250 := by
  decide +kernel

theorem witness_DecRbUnpacksOrFails :
    (args 0 0 0 0).status.busy = false ∧ (args 0 0 0 0).count.toNat < 1 ∧ 2000 < (args 0 0 2001#16 0).count.toNat ∧
    1 ≤ (args 0 0 1#16 0).count.toNat ∧ (args 0 0 2000#16 0).count.toNat ≤ 2000 := by
  decide +kernel

theorem witness_DecRrExtractsTheWord : State.reset.status.busy = false := rfl

theorem witness_DecWbChecksTheEcho : State.reset.status.busy = false := rfl

theorem witness_DecWrChecksTheEcho : State.reset.status.busy = false := rfl

/-- TD20 before its CMD write, TD7 before its CMD write. -/
def beforeDecRR : State := writes 0x000 0x0021#16 (loaded [0x01#8, 0x03#8, 0x02#8, 0x01#8, 0xF4#8, 0xB8#8, 0x53#8]
      State.reset)

theorem witness_ResultsAreWrittenOnSuccessOnly :
    StateInv beforeDecRR ∧ (result (step beforeDecRR)).result ≠ beforeDecRR.result ∧
    (result (step beforeDecRR)).status.rvalid = true ∧ beforeDecRR.status.rvalid = false ∧
    StateInv (writes 0x000 0x0020#16 oneCoil) ∧
    (result (step (writes 0x000 0x0020#16 oneCoil))).coil ≠ oneCoil.coil :=
  ⟨inv_of_ok (by decide +kernel), by decide +kernel, by decide +kernel, rfl, inv_of_ok (by decide +kernel),
    by decide +kernel⟩

theorem witness_ResultsAreWrittenOnSuccessOnly_exchange :
    (result (step (withEvents [.rx [0x01#8, 0x03#8, 0x02#8, 0x01#8, 0xF4#8, 0xB8#8, 0x53#8]] rr))).result ≠ rr.result
      ∧
    (result (step (withEvents [.rx [0x01#8, 0x01#8, 0x02#8, 0xCD#8, 0x06#8, 0x6D#8, 0x6E#8]] rb))).coil ≠ rb.coil :=
      by
  decide +kernel

/-- A request with function code fc stands encoded. -/
def encoded (fc : Byte) (w : Word) : State := putRequest fc w (args 0x01#8 0 0 0)

theorem witness_XferStartsTheExchange :
    (encoded 0x01#8 0x0001#16).status.busy = false ∧ (encoded 0x01#8 0x0001#16).txLen = 8 ∧ State.reset.txLen ≠ 8 ∧
    (encoded 0x01#8 0x0001#16).txbuf[1] = 0x01#8 ∧ (encoded 0x03#8 0x0001#16).txbuf[1] = 0x03#8 ∧
    (encoded 0x05#8 0x0000#16).txbuf[1] = 0x05#8 ∧ (encoded 0x06#8 0x0000#16).txbuf[1] = 0x06#8 := by
  decide +kernel

theorem witness_TxnEncodesAndStarts :
    (args 0 0 1#16 0).status.busy = false ∧ 1 ≤ (args 0 0 1#16 0).count.toNat ∧
    (args 0 0 2000#16 0).count.toNat ≤ 2000 ∧ (args 0 0 0 0).count.toNat < 1 ∧
    2000 < (args 0 0 2001#16 0).count.toNat := by
  decide +kernel

theorem witness_SendStepTransmitsTheRequest :
    (sending .txnRB 0x01#8 0x000B#16 (args 0x01#8 0x000D#16 0x000B#16 0)).txbuf.toList =
      frameOf (sixBody 0x01#8 0x01#8 0x000D#16 0x000B#16) 0x0EEC#16 ∧
    rrSend.txbuf.toList = frameOf (sixBody 0x01#8 0x03#8 0x0001#16 0x0001#16) 0xCAD5#16 ∧
    (sending .txnWB 0x05#8 0xFF00#16 (args 0x01#8 0x00AC#16 0 1#16)).txbuf.toList =
      frameOf (sixBody 0x01#8 0x05#8 0x00AC#16 0xFF00#16) 0x1B4C#16 ∧
    (sending .txnWB 0x05#8 0x0000#16 (args 0x01#8 0x00AC#16 0 0)).txbuf.toList =
      frameOf (sixBody 0x01#8 0x05#8 0x00AC#16 0x0000#16) 0xEB0D#16 ∧
    (sending .txnWR 0x06#8 0x0003#16 (args 0x01#8 0x0001#16 0 3#16)).txbuf.toList =
      frameOf (sixBody 0x01#8 0x06#8 0x0001#16 0x0003#16) 0x0B98#16 ∧
    rrSend.phase = .send ∧ (withEvents [.tx .ok] rrSend).events = .tx .ok :: [] ∧
    (withEvents [.tx .fail] rrSend).events = .tx .fail :: [] := by
  decide +kernel

/-- Before the last byte of a response, and before the last of an exception response. -/
def sixIn : State := receive [0x01#8, 0x03#8, 0x02#8, 0x01#8, 0xF4#8, 0xB8#8] rr

/-- Four bytes of an exception response are in. -/
def fourIn : State := receive [0x01#8, 0x83#8, 0x02#8, 0xC0#8] rr

theorem witness_ReceivedByteIsAppended :
    StateInv (withEvents [.rx [0x01#8]] rr) ∧ StateInv (withEvents [.rx [0x53#8]] sixIn) ∧
    StateInv (withEvents [.rx [0xF1#8]] fourIn) ∧ rr.phase = .recv ∧ sixIn.phase = .recv ∧ fourIn.phase = .recv ∧
    sixIn.rxLen.toNat + 1 = sixIn.explen ∧ fourIn.rxLen.toNat + 1 = 5 ∧ 0x80 ≤ (rxAt fourIn 1).toNat :=
  ⟨inv_of_ok (by decide +kernel), inv_of_ok (by decide +kernel), inv_of_ok (by decide +kernel), by decide +kernel⟩

/-- The first 254 bytes of the longest response are in. -/
def longIn : State :=
  receive (0x01#8 :: 0x01#8 :: 0xFA#8 :: List.replicate 251 0x00#8)
    (receiving .txnRB 0x01#8 0x07D0#16 (args 0x01#8 0x0000#16 0x07D0#16 0))

set_option maxRecDepth 100000 in
theorem witness_CompletedResponseIsDecoded_longest :
    StateInv (withEvents [.rx [0x00#8]] longIn) ∧ longIn.phase = .recv ∧ longIn.rxLen = 254 ∧
    completes longIn [0x00#8] :=
  ⟨inv_of_ok (by decide +kernel), by decide +kernel, by decide +kernel, by unfold completes; decide +kernel⟩

/-- A whole frame, its last byte with a late one (TX14), the last byte of an exception response (TX13), and an exception
response with a wrong CRC under XFER. -/
theorem witness_CompletedResponseIsDecoded :
    StateInv (withEvents [.rx [0x01#8, 0x03#8, 0x02#8, 0x01#8, 0xF4#8, 0xB8#8, 0x53#8]] rr) ∧
    completes rr [0x01#8, 0x03#8, 0x02#8, 0x01#8, 0xF4#8, 0xB8#8, 0x53#8] ∧
    StateInv (withEvents [.rx ([0x53#8] ++ [0x77#8])] sixIn) ∧ completes sixIn [0x53#8] ∧
    StateInv (withEvents [.rx [0xF1#8]] fourIn) ∧ completes fourIn [0xF1#8] ∧
    StateInv (withEvents [.rx [0x01#8, 0x86#8, 0x02#8, 0x00#8, 0x00#8]] (xf 0x06#8 0x0003#16)) ∧
    completes (xf 0x06#8 0x0003#16) [0x01#8, 0x86#8, 0x02#8, 0x00#8, 0x00#8] ∧
    encode (.rspException 0x01#8 0x06#7 0x02#8 0x0000#16) = .response [0x01#8, 0x86#8, 0x02#8, 0x00#8, 0x00#8] :=
  ⟨inv_of_ok (by decide +kernel), by unfold completes; decide +kernel, inv_of_ok (by decide +kernel),
    by unfold completes; decide +kernel, inv_of_ok (by decide +kernel), by unfold completes; decide +kernel,
    inv_of_ok (by decide +kernel), by unfold completes; decide +kernel, rfl⟩

/-- A write-bit echo with its own CRC comes to TXN_WR, its last two bytes in a later piece (42_decoder.md R151, corner cases). -/
theorem witness_ForeignFunctionCodeIsProtocolError :
    StateInv (withEvents [.rx ([0x4C#8, 0x1B#8] ++ [])]
      (receive [0x01#8, 0x05#8, 0x00#8, 0xAC#8, 0xFF#8, 0x00#8] wr)) ∧
    wr.op ≠ .xfer ∧
    completes (receive [0x01#8, 0x05#8, 0x00#8, 0xAC#8, 0xFF#8, 0x00#8] wr) [0x4C#8, 0x1B#8] ∧
    crcOk [0x01#8, 0x05#8, 0x00#8, 0xAC#8, 0xFF#8, 0x00#8, 0x4C#8, 0x1B#8] = true ∧
    rxFrame (receive [0x01#8, 0x05#8, 0x00#8, 0xAC#8, 0xFF#8, 0x00#8] wr) =
      [0x01#8, 0x05#8, 0x00#8, 0xAC#8, 0xFF#8, 0x00#8] ∧
    wr.txbuf[1] = 0x06#8 :=
  ⟨inv_of_ok (by decide +kernel), by decide +kernel, by unfold completes; decide +kernel, by decide +kernel⟩

theorem witness_BurstIsItsBytes :
    (withEvents [.rx [0x01#8, 0x03#8]] rr).events = .rx [0x01#8, 0x03#8] :: [] ∧
    (withEvents [.rx []] rr).events = .rx [] :: [] := ⟨rfl, rfl⟩

theorem witness_UnawaitedEventsAreDropped :
    State.reset.phase ≠ .recv ∧ rrSend.phase ≠ .recv ∧
    (withEvents [.rx [0x01#8]] rrSend).events = .rx [0x01#8] :: [] ∧
    (withEvents [.rxTimeout] rrSend).events = .rxTimeout :: [] := by
  decide +kernel

theorem witness_TimeoutRetriesOnce :
    rr.phase = .recv ∧ rr.status.attempts.toNat < 2 ∧
    (retried .txnRR 0x03#8 0x0001#16 (args 0x01#8 0x0001#16 0 0)).phase = .recv ∧
    2 ≤ (retried .txnRR 0x03#8 0x0001#16 (args 0x01#8 0x0001#16 0 0)).status.attempts.toNat ∧
    (retried .txnRR 0x03#8 0x0001#16 (args 0x01#8 0x0001#16 0 0)).rxLen = 0 ∧
    (receive [0x01#8] (retried .txnRR 0x03#8 0x0001#16 (args 0x01#8 0x0001#16 0 0))).rxLen ≠ 0 := by
  decide +kernel

theorem witness_TxnRbReceivesCoils :
    StateInv rb ∧ awaitingFrame rb .txnRB (5 + [0xCD#8, 0x06#8].length) ∧
    [0xCD#8, 0x06#8].length = (rb.count.toNat + 7) / 8 ∧
    crc16 (readBitsBody 0x01#8 [0xCD#8, 0x06#8]) = 0x6E6D#16 :=
  ⟨inv_rb, ⟨rfl, rfl, rfl, by decide +kernel⟩, by decide +kernel, by decide +kernel⟩

theorem witness_TxnRrReceivesTheWord :
    StateInv rr ∧ awaitingFrame rr .txnRR 7 ∧ crc16 (readRegisterBody 0x01#8 0x01F4#16) = 0x53B8#16 :=
  ⟨inv_rr, ⟨rfl, rfl, rfl, by decide +kernel⟩, by decide +kernel⟩

theorem witness_TxnWriteChecksTheEcho :
    StateInv wb ∧ awaitingFrame wb .txnWB 8 ∧ crc16 (sixBody 0x01#8 0x05#8 0x00AC#16 0xFF00#16) = 0x1B4C#16 ∧
    StateInv wr ∧ awaitingFrame wr .txnWR 8 ∧ crc16 (sixBody 0x01#8 0x06#8 0x0001#16 0x0003#16) = 0x0B98#16 :=
  ⟨inv_wb, ⟨rfl, rfl, rfl, by decide +kernel⟩, by decide +kernel, inv_wr, ⟨rfl, rfl, rfl, by decide +kernel⟩,
    by decide +kernel⟩

theorem witness_ExceptionResponseEndsTheExchange :
    StateInv wr ∧ wr.phase = .recv ∧ wr.rxLen = 0 ∧ crc16 (exceptionBody 0x01#8 0x06#7 0x02#8) = 0xA1C3#16 ∧
    wr.op ≠ .xfer ∧ (0x06#7).setWidth 8 = wr.txbuf[1] ∧ (0x03#7).setWidth 8 ≠ wr.txbuf[1] ∧
    StateInv (xf 0x06#8 0x0003#16) ∧ (xf 0x06#8 0x0003#16).op = .xfer :=
  ⟨inv_wr, rfl, rfl, by decide +kernel, by decide +kernel, by decide +kernel, by decide +kernel,
    inv_of_ok (by decide +kernel), rfl⟩

theorem witness_BadCrcEndsTheExchange :
    rr.phase = .recv ∧ rr.rxLen = 0 ∧ rr.op ≠ .xfer ∧
    crc16 (readBitsBody 0x01#8 [0xCD#8, 0x06#8]) ≠ 0x6E6E#16 ∧
    rb.explen = (readBitsBody 0x01#8 [0xCD#8, 0x06#8]).length + 2 ∧
    crc16 (readRegisterBody 0x01#8 0x01F4#16) ≠ 0x54B8#16 ∧ rr.explen = (readRegisterBody 0x01#8 0x01F4#16).length + 2 ∧
    wb.explen = (sixBody 0x01#8 0x05#8 0x00AC#16 0xFF00#16).length + 2 ∧
    wr.explen = (sixBody 0x01#8 0x06#8 0x0001#16 0x0003#16).length + 2 ∧
    crc16 (exceptionBody 0x01#8 0x06#7 0x02#8) ≠ 0xA2C3#16 := by
  decide +kernel

theorem witness_XferKeepsTheResponse :
    StateInv (xf 0x01#8 0x0001#16) ∧ StateInv (xf 0x03#8 0x0001#16) ∧ StateInv (xf 0x05#8 0x0000#16) ∧
    StateInv (xf 0x06#8 0x0003#16) ∧ (xf 0x01#8 0x0001#16).phase = .recv ∧ (xf 0x01#8 0x0001#16).rxLen = 0 ∧
    (xf 0x01#8 0x0001#16).op = .xfer ∧
    (xf 0x01#8 0x0001#16).explen = (frameOf (readBitsBody 0x01#8 [0x01#8]) 0x0000#16).length ∧
    (xf 0x03#8 0x0001#16).explen = (frameOf (readRegisterBody 0x01#8 0x01F4#16) 0x0000#16).length ∧
    (xf 0x05#8 0x0000#16).explen = (frameOf (sixBody 0x01#8 0x05#8 0x0001#16 0x0000#16) 0x0000#16).length ∧
    (xf 0x06#8 0x0003#16).explen = (frameOf (sixBody 0x01#8 0x06#8 0x0001#16 0x0003#16) 0x0000#16).length :=
  ⟨inv_of_ok (by decide +kernel), inv_of_ok (by decide +kernel), inv_of_ok (by decide +kernel),
    inv_of_ok (by decide +kernel), by decide +kernel⟩

theorem witness_NothingButResetAborts :
    rr.status.busy = true ∧ (result (step (withEvents [.reset] rr))).status.busy = false ∧
    (result (step (withEvents [.tx .fail] rrSend))).status.busy = false ∧
    (result (step (withEvents [.rx [0xF1#8]] fourIn))).status.busy = false ∧
    (result (step (withEvents [.rxTimeout] (retried .txnRR 0x03#8 0x0001#16 (args 0x01#8 0x0001#16 0
      0))))).status.busy =
      false := by
  decide +kernel

theorem witness_ArgumentsAreStableWhileBusy :
    rr.status.busy = true ∧ (writes 0x003 0x0055#16 rr).events = .hostWrite 0x003#10 0x0055#16 :: [] ∧
    step (writes 0x003 0x0055#16 rr) = .next (result (step (writes 0x003 0x0055#16 rr))) :=
  ⟨by decide +kernel, rfl, step_result _⟩

theorem witness_RxbufIsWrittenByHostAndArbiterOnly :
    (result (step (withEvents [.reset] fourIn))).rxLen ≠ fourIn.rxLen ∧
    (result (step (writes 0x00B 0x0100#16 State.reset))).rxLen ≠ State.reset.rxLen ∧
    (result (step (withEvents [.tx .ok] (timeoutStep fourIn)))).rxLen ≠ fourIn.rxLen ∧
    (result (step (withEvents [.rx [0x01#8]] rr))).rxLen ≠ rr.rxLen ∧
    rxAt (result (step (writes 0x1FF 0x0001#16 oneCoil))) 1 = rxAt oneCoil 1 := by
  decide +kernel

theorem witness_ErrorsArePrecise :
    StateInv (withEvents [.tx .fail] rrSend) ∧ rrSend.status.done = false ∧
    (result (step (withEvents [.tx .fail] rrSend))).status.done = true ∧
    (result (step (withEvents [.tx .fail] rrSend))).status.err = true ∧
    (result (step (writes 0x000 0x0110#16 State.reset))).status.err = true :=
  ⟨inv_of_ok (by decide +kernel), by decide +kernel⟩

/-- The state after `k` steps. -/
def after : Nat → State → State
  | 0, s => s
  | k + 1, s => after k (result (step s))

theorem run_after (k : Nat) (s : State) : Host.Core.run Sys2Proof.core k s = .next (after k s) := by
  induction k generalizing s with
  | zero => rfl
  | succ k ih =>
    have e : Sys2Proof.core.step s = .next (result (step s)) := step_result s
    simpa only [Host.Core.run, e, after] using ih (result (step s))

/-- `beginsAnew`, checked. -/
def anew (s : State) : Bool :=
  match s.events with
  | .reset :: _ => true
  | .hostWrite a _ :: _ => a == 0x000#10 && !s.status.busy
  | _ => false

theorem anew_of_beginsAnew {s : State} (h : beginsAnew s) : anew s = true := by
  rcases h with ⟨rest, h⟩ | ⟨hb, c, rest, h⟩ <;> simp [anew, *]

/-- A retried exchange, with a CMD write that is ignored and one of an argument register after its end. -/
def twice : State :=
  withEvents [.tx .ok, .hostWrite 0x000#10 0x0030#16, .rxTimeout, .tx .ok, .rxTimeout, .hostWrite 0x003#10 0x0002#16]
    rrSend

theorem witness_AtMostTwoIdenticalRequests :
    StateInv twice ∧ twice.phase = .send ∧ twice.status.attempts = 0 ∧
    (∀ j < 6, ∀ u, Host.Core.run Sys2Proof.core j twice = .next u → ¬ beginsAnew u) ∧
    Host.Core.run Sys2Proof.core 6 twice = .next (after 6 twice) ∧ (after 6 twice).sent.length = 2 ∧
    (after 2 twice).status.ign = true := by
  refine ⟨inv_of_ok (by decide +kernel), by decide +kernel, by decide +kernel, fun j hj u hu hn => ?_, run_after 6 _,
    by decide +kernel, by decide +kernel⟩
  rw [run_after] at hu
  injection hu with hu
  have h : ∀ j < 6, anew (after j twice) = false := by decide +kernel
  have := anew_of_beginsAnew (hu ▸ hn)
  rw [h j hj] at this
  cases this

theorem witness_AttemptsCountTransmissions :
    StateInv (withEvents [.tx .ok] rrSend) ∧ rrSend.phase = .send ∧
    StateInv (withEvents [.tx .fail] (timeoutStep rr)) ∧ (timeoutStep rr).phase = .send ∧
    StateInv (withEvents [.rxTimeout] rr) ∧ rr.phase ≠ .send ∧ rr.status.attempts = 1 ∧
    beginsAnew (withEvents [.reset] rr) ∧ beginsAnew (writes 0x000 0x0001#16 ignored) ∧
    StateInv (writes 0x000 0x0001#16 ignored) ∧ ignored.status.attempts = 2 :=
  ⟨inv_of_ok (by decide +kernel), by decide +kernel, inv_of_ok (by decide +kernel), by decide +kernel,
    inv_of_ok (by decide +kernel), by decide +kernel, by decide +kernel, .inl ⟨_, rfl⟩,
    .inr ⟨by decide +kernel, _, _, rfl⟩, inv_of_ok (by decide +kernel), by decide +kernel⟩

theorem witness_AwaitedEventsEndTheCommand :
    StateInv (withEvents [.tx .ok] rrSend) ∧ awaited rrSend (.tx .ok) ∧ awaited rrSend (.tx .fail) ∧
    StateInv (withEvents [.rxTimeout] rr) ∧ awaited rr .rxTimeout ∧ awaited rr (.rx [0x01#8]) :=
  ⟨inv_of_ok (by decide +kernel), .inl rfl, .inr rfl, inv_of_ok (by decide +kernel), .inl rfl, .inr ⟨_, rfl⟩⟩

end Sys2Proof.Tests
end

/-! ## Proofs: HOST writes

The step that takes a HOST write, the RWP words of the register map, and what an
ignored write leaves (10_state.md R22, R23, R30). -/

namespace Sys2Proof.Machine

/-! ### the step of a HOST write -/

section
variable {s : State} {a : BitVec 10} {v : Word} {rest : List Event}

theorem step_hostWrite (he : s.events = .hostWrite a v :: rest) :
    step s = writeAccess a v { s with events := rest } := by
  have hpop : popEvent s = { s with events := rest } := by simp [popEvent, he]
  rw [← hpop]
  unfold step
  rw [he]
  rfl

theorem step_hostWrite_cmd (he : s.events = .hostWrite a v :: rest) (ha : a.toNat = 0x000) :
    step s = .next (issue (commandBody v) { s with events := rest }) := by
  have hcmd : hostReg a = .cmd := (hostReg_eq_cmd a).2 (BitVec.eq_of_toNat_eq ha)
  rw [step_hostWrite he, writeAccess, if_pos hcmd, writeCmd_eq]

theorem step_hostWrite_reg (he : s.events = .hostWrite a v :: rest) (ha : a.toNat ≠ 0x000) :
    step s = .next (writeReg (hostReg a) v { s with events := rest }) := by
  have hcmd : hostReg a ≠ .cmd := fun h => ha (congrArg BitVec.toNat ((hostReg_eq_cmd a).1 h))
  rw [step_hostWrite he, writeAccess, if_neg hcmd]

end

/-! ### the RWP words, and what a write of a register other than CMD does -/

theorem controlReg_isProtected_iff (n : Nat) :
    (controlReg n).isProtected = true ↔ (0x002 ≤ n ∧ n ≤ 0x006) ∨ n = 0x00B := by
  unfold controlReg
  split
  case h_13 =>
    simp only [HostReg.isProtected, Bool.false_eq_true, false_iff, imp_false] at *
    omega
  all_goals simp [HostReg.isProtected]

/-- The word addresses of access code RWP (10_state.md R22). -/
theorem hostReg_isProtected_iff (a : BitVec 10) :
    (hostReg a).isProtected = true ↔
      (0x002 ≤ a.toNat ∧ a.toNat ≤ 0x006) ∨ a.toNat = 0x00B ∨ (0x100 ≤ a.toNat ∧ a.toNat ≤ 0x1FF) := by
  unfold hostReg
  split_ifs
  · rw [controlReg_isProtected_iff]
    omega
  all_goals
    simp only [HostReg.isProtected, Bool.false_eq_true, true_iff, false_iff]
    omega

theorem writeReg_protected_busy {r : HostReg} {s : State} (hr : r.isProtected = true) (hb : s.status.busy = true)
    (v : Word) : writeReg r v s = setIgn s := by
  simp [writeReg, hr, hb]

theorem writeReg_unprotected {r : HostReg} (hr : r.isProtected = false) (v : Word) (s : State) :
    writeReg r v s = s := by
  simp [writeReg, hr]

/-! ### IGN at acceptance -/

/-- The prologue clears IGN (60_exceptions.md R203) and no command's body sets it again. -/
theorem issue_ready_ign (c : Word) {s : State} (hb : s.status.busy = false) :
    (issue (commandBody c) s).status.ign = false := by
  obtain ⟨-, hign, -⟩ := commandBody_keeps_counts c (acceptPrologue s)
  rw [issue_ready hb, hign, acceptPrologue_status, Status.accept_ign]

/-- Settles O16: while BUSY a CMD write is not issued and an RWP word is not stored, so each only sets IGN; every other
word is unprotected, so its write changes nothing; acceptance clears IGN. -/
theorem ignoredWritesSetIgn : Obligations.IgnoredWritesSetIgn := by
  unfold Obligations.IgnoredWritesSetIgn
  intro s a v rest he
  refine ⟨fun hb ha => ?_, fun ha => ?_, fun hb ha => ?_⟩
  · by_cases h0 : a.toNat = 0x000
    · rw [step_hostWrite_cmd he h0, issue_busy (s := { s with events := rest }) hb]
      rfl
    · have hr : (hostReg a).isProtected = true := by rw [hostReg_isProtected_iff]; omega
      rw [step_hostWrite_reg he h0, writeReg_protected_busy (s := { s with events := rest }) hr hb]
      rfl
  · have h0 : a.toNat ≠ 0x000 := by omega
    have hr : (hostReg a).isProtected = false := by rw [Bool.eq_false_iff, Ne, hostReg_isProtected_iff]; omega
    rw [step_hostWrite_reg he h0, writeReg_unprotected hr]
  · exact ⟨_, step_hostWrite_cmd he ha, issue_ready_ign v hb⟩

end Sys2Proof.Machine

/-! ## Proofs: command decode

The body an accepted CMD value runs: its row's, or IllegalCommand for a value of no row (30_encoding.md R84). -/

namespace Sys2Proof.Machine

/-- The converse of `encode_of_decodeCommand`: the table has one row per command. -/
theorem decodeCommand_of_encode {c : Word} {i : Instr} (h : encode i = .command c) : decodeCommand c = .instr i := by
  cases i <;> simp only [encode, Form.command.injEq, reduceCtorEq] at h <;> subst h <;> decide

theorem commandBody_of_encode {c : Word} {i : Instr} (h : encode i = .command c) : commandBody c = bodyOf i := by
  rw [commandBody, decodeCommand_of_encode h]

theorem commandBody_of_forall_ne {c : Word} (h : ∀ i, encode i ≠ .command c) :
    commandBody c = raiseErr .illegalCommand := by
  obtain ⟨i, hi, -⟩ | ⟨-, hbody⟩ := commandBody_cases c
  · exact absurd hi (h i)
  · exact hbody

@[simp] theorem acceptPrologue_acceptPrologue (s : State) : acceptPrologue (acceptPrologue s) = acceptPrologue s := rfl

/-- Issuing runs the prologue of R203 itself, so a prologue before it shows in nothing. -/
theorem issue_acceptPrologue {body : State → State} {s : State} (hb : s.status.busy = false) :
    issue body (acceptPrologue s) = issue body s := by
  have hb' : (acceptPrologue s).status.busy = false := hb
  rw [issue_ready hb', issue_ready hb, acceptPrologue_acceptPrologue]

theorem raiseErr_acceptPrologue {k : ErrKind} (hk : k ≠ .none) (s : State) :
    raiseErr k (acceptPrologue s) = failedWith k s := by
  simp [raiseErr, acceptPrologue, failedWith, endedStatus, Status.raise, Status.accept, hk]

/-- Settles O8: the step of a CMD write issues the body its value stands for, which a command's code and `exec` agree
on; a value of no row stands for `raise IllegalCommand()`. -/
theorem commandDecodeIsTotal : Obligations.CommandDecodeIsTotal := by
  unfold Obligations.CommandDecodeIsTotal
  intro s a c rest he ha hbusy
  have hstep := step_hostWrite_cmd he (congrArg BitVec.toNat ha)
  have hb : ({ s with events := rest } : State).status.busy = false := hbusy
  refine ⟨fun i hi => ⟨?_, ?_⟩, fun hno => ?_⟩
  · rw [hstep, commandBody_of_encode hi, exec_command hi]
  · rw [exec_command hi, exec_command hi, issue_acceptPrologue hb]
  · rw [hstep, commandBody_of_forall_ne hno, issue_ready hb, raiseErr_acceptPrologue (by decide)]

end Sys2Proof.Machine

/-! ## Proofs: the CRC generator

`crc_step` is a bijection in either argument, so one changed byte changes the CRC of a sequence; and the CRC check of a
frame asks for residue 0, so it fails with it (40_crc.md R101, R105, section 2). -/

namespace Sys2Proof.Machine

/-! ### one byte of a sequence shows in its CRC -/

theorem crcBits_inj {n : Nat} {c d : Word} : crcBits n c = crcBits n d ↔ c = d := by
  constructor
  · intro h
    have hzero : crcBits n (c ^^^ d) = 0 := by rw [crcBits_xor, h, BitVec.xor_self]; rfl
    exact BitVec.xor_eq_zero_iff.1 (crcBits_eq_zero hzero)
  · exact congrArg _

theorem crcStep_inj_crc {c d : Word} (b : Byte) : crcStep c b = crcStep d b ↔ c = d :=
  crcBits_inj.trans (BitVec.xor_left_inj _)

theorem byte_setWidth_inj {a b : Byte} : a.setWidth 16 = b.setWidth 16 ↔ a = b := by
  constructor
  · intro h
    simpa using congrArg (BitVec.setWidth 8) h
  · exact congrArg _

theorem crcStep_inj_byte (c : Word) {a b : Byte} : crcStep c a = crcStep c b ↔ a = b :=
  (crcBits_inj.trans (BitVec.xor_right_inj _)).trans byte_setWidth_inj

theorem foldl_crcStep_inj (m : List Byte) {c d : Word} : m.foldl crcStep c = m.foldl crcStep d ↔ c = d := by
  induction m generalizing c d with
  | nil => rfl
  | cons b m ih => exact ih.trans (crcStep_inj_crc b)

theorem crc16_inj_byte (p q : List Byte) {a b : Byte} : crc16 (p ++ a :: q) = crc16 (p ++ b :: q) ↔ a = b := by
  rw [crc16_append, crc16_append, List.foldl_cons, List.foldl_cons, foldl_crcStep_inj, crcStep_inj_byte]

/-! ### flipping one bit -/

@[simp] theorem flipBit_length (m : List Byte) (i j : Nat) : (flipBit m i j).length = m.length :=
  List.length_modify ..

theorem xor_twoPow_ne {j : Nat} (hj : j < 8) (b : Byte) : b ^^^ BitVec.twoPow 8 j ≠ b := by
  intro h
  have hbit := congrArg (fun x : Byte => x.getLsbD j) h
  simp [hj] at hbit

theorem crc16_flipBit_ne {m : List Byte} {i j : Nat} (hi : i < m.length) (hj : j < 8) :
    crc16 (flipBit m i j) ≠ crc16 m := by
  obtain ⟨p, b, q, hm, -, hflip⟩ := List.exists_of_modify (· ^^^ BitVec.twoPow 8 j) hi
  rw [flipBit, hflip, hm, Ne, crc16_inj_byte]
  exact xor_twoPow_ne hj b

/-! ### the check of a frame as its residue -/

/-- Turns that shift out zeros only are a plain shift. -/
theorem crcBits_eq_ushiftRight {n : Nat} {c : Word} (h : ∀ i < n, c.getLsbD i = false) : crcBits n c = c >>> n := by
  induction n generalizing c with
  | zero => simp [crcBits]
  | succ n ih =>
    have hbit : crcBit c = c >>> 1 := by
      rw [crcBit, h 0 (by omega)]
      rfl
    have hlow : ∀ i < n, (c >>> 1).getLsbD i = false := fun i hi => by
      rw [BitVec.getLsbD_ushiftRight]
      exact h (1 + i) (by omega)
    rw [crcBits, hbit, ih hlow, ← BitVec.shiftRight_add, Nat.add_comm]

theorem cat16_xor_low (h l : Byte) : cat16 h l ^^^ l.setWidth 16 = h.setWidth 16 <<< 8 := by
  ext i hi
  by_cases h8 : i < 8
  · simp [cat16, h8]
  · simp [cat16, h8, BitVec.getLsbD_of_ge l i (by omega)]

/-- A step with the low byte of the CRC leaves the high one. -/
theorem crcStep_cat16 (h l : Byte) : crcStep (cat16 h l) l = h.setWidth 16 := by
  rw [crcStep, cat16_xor_low, crcBits_eq_ushiftRight]
  · ext i hi
    by_cases h8 : i < 8
    · simp [show 8 + i < 16 by omega]
    · simp [BitVec.getLsbD_of_ge h i (by omega)]
  · intro i hi
    simp [hi]

theorem crcStep_eq_zero_iff {c : Word} {b : Byte} : crcStep c b = 0 ↔ c = b.setWidth 16 := by
  refine ⟨crcStep_eq_zero, ?_⟩
  rintro rfl
  rw [crcStep, BitVec.xor_self]
  rfl

/-- A CRC field carries a frame's CRC to 0 exactly when it is that CRC. -/
theorem crc16_frameOf_eq_zero_iff (body : List Byte) (c : Word) : crc16 (frameOf body c) = 0 ↔ crc16 body = c := by
  have hfield : crcStep c (lo8 c) = (hi8 c).setWidth 16 := by
    conv_lhs => rw [← cat16_hi8_lo8 c, lo8_cat16]
    exact crcStep_cat16 ..
  rw [frameOf, crc16_append, crcField, List.foldl_cons, List.foldl_cons, List.foldl_nil, crcStep_eq_zero_iff, ← hfield,
    crcStep_inj_crc]

/-- The bytes of a frame before its last two, and those two as its CRC field (30_encoding.md R86). -/
theorem exists_eq_frameOf {f : List Byte} (h : 2 ≤ f.length) : ∃ body c, f = frameOf body c := by
  have htail : (f.drop (f.length - 2)).length = 2 := by rw [List.length_drop]; omega
  obtain ⟨lo, hi, hfield⟩ := List.length_eq_two.1 htail
  refine ⟨f.take (f.length - 2), cat16 hi lo, ?_⟩
  rw [frameOf, crcField, lo8_cat16, hi8_cat16, ← hfield, List.take_append_drop]

theorem crcOk_iff_residue {f : List Byte} (h : 2 ≤ f.length) : crcOk f = true ↔ crc16 f = 0 := by
  obtain ⟨body, c, rfl⟩ := exists_eq_frameOf h
  rw [crcOk_frameOf, crc16_frameOf_eq_zero_iff]

/-- Settles O22: the flip changes one byte, which the CRC tells apart; a frame that passed its check has residue 0, so
the flipped one has another. -/
theorem singleBitFlipIsDetected : Obligations.SingleBitFlipIsDetected := by
  unfold Obligations.SingleBitFlipIsDetected
  refine ⟨fun m i j hi hj => crc16_flipBit_ne hi hj, fun f i j hlen hok hi hj => ?_⟩
  have hzero : crc16 f = 0 := (crcOk_iff_residue (by omega)).1 hok
  have hflip : crc16 (flipBit f i j) ≠ 0 := hzero ▸ crc16_flipBit_ne hi hj
  rw [Bool.eq_false_iff, Ne, crcOk_iff_residue (by rw [flipBit_length]; omega)]
  exact hflip

/-! ### CRC_INIT and CRC_FEED -/

theorem exec_crcInit (s : State) : exec .crcInit s = .next (issue crcInitBody s) := rfl

theorem exec_crcFeed (s : State) : exec .crcFeed s = .next (issue crcFeedBody s) := rfl

theorem finishOk_acceptPrologue (s : State) : finishOk (acceptPrologue s) = succeeded s := rfl

theorem finishOk_setCrc (w : Word) (s : State) : finishOk (setCrc w s) = setCrc w (finishOk s) := rfl

/-- Settles O19: with BUSY = 0 the prologue, the new CRC and `finish_ok`; with BUSY = 1 the command is not issued. -/
theorem crcInitSetsInitialValue : Obligations.CrcInitSetsInitialValue := by
  unfold Obligations.CrcInitSetsInitialValue
  intro s
  refine ⟨fun hready => ?_, fun hbusy => ?_⟩
  · rw [exec_crcInit, issue_ready hready, crcInitBody, finishOk_setCrc, finishOk_acceptPrologue]
    rfl
  · rw [exec_crcInit, issue_busy hbusy]
    rfl

/-- Settles O20: the prologue leaves CRC and DATA, so the body folds the DATA of `s` into the CRC of `s`. -/
theorem crcFeedFoldsData : Obligations.CrcFeedFoldsData := by
  unfold Obligations.CrcFeedFoldsData
  intro s hready
  rw [exec_crcFeed, issue_ready hready, crcFeedBody, acceptPrologue_crc, acceptPrologue_data, finishOk_setCrc,
    finishOk_acceptPrologue]
  rfl

end Sys2Proof.Machine

/-! ## Proofs: the encoders

An accepted encoder puts the frame of its six-byte body into TXBUF and succeeds; ENC_RB alone may reject its argument
(41_encoder.md R120 to R124). -/

namespace Sys2Proof.Machine

/-! ### the request in TXBUF -/

/-- The frame of R120: the six bytes of the request, then their CRC field. -/
theorem buildReq_toList (sl fc : Byte) (a w : Word) :
    (buildReq sl fc a w).toList = frameOf (sixBody sl fc a w) (crc16 (sixBody sl fc a w)) := rfl

theorem finishOk_putRequest_acceptPrologue (fc : Byte) (w : Word) (s : State) :
    finishOk (putRequest fc w (acceptPrologue s)) =
      { succeeded s with txbuf := buildReq s.slave fc s.addr w, txLen := 8 } := rfl

/-- What the four encoders share: a command whose accepted body is `putRequest` and `finish_ok` leaves the frame of the
request's body in TXBUF and succeeds. -/
theorem exec_builds_frame {i : Instr} {s : State} {fc : Byte} {w : Word} {body : List Byte}
    (hexec : exec i s = .next (finishOk (putRequest fc w (acceptPrologue s))))
    (hbody : sixBody s.slave fc s.addr w = body) :
    ∃ t, exec i s = .next { succeeded s with txbuf := t, txLen := 8 } ∧ t.toList = body ++ crcField (crc16 body) := by
  refine ⟨buildReq s.slave fc s.addr w, ?_, ?_⟩
  · rw [hexec, finishOk_putRequest_acceptPrologue]
  · rw [buildReq_toList, hbody, frameOf]

/-! ### what each encoder writes -/

theorem encRBBody_of_countOk {s : State} (hcount : countOk s.count = true) (k : State → State) :
    encRBBody k s = k (putRequest 0x01#8 s.count s) := if_pos hcount

theorem encRBBody_of_not_countOk {s : State} (hcount : ¬ countOk s.count = true) (k : State → State) :
    encRBBody k s = raiseErr .invalidArgument (dropRequest s) := if_neg hcount

theorem raiseErr_dropRequest (k : ErrKind) (s : State) : raiseErr k (dropRequest s) = dropRequest (raiseErr k s) := rfl

theorem coilWord_of_ne_zero {v : Word} (hv : v ≠ 0) : coilWord v = coilOn := if_neg hv

theorem coilWord_zero : coilWord 0 = coilOff := rfl

section
variable {s : State} (hready : s.status.busy = false)
include hready

theorem exec_encRB : exec .encRB s = .next (encRBBody finishOk (acceptPrologue s)) := by
  rw [exec_command (i := .encRB) rfl, issue_ready hready, bodyOf]

theorem exec_encRR : exec .encRR s = .next (finishOk (putRequest 0x03#8 0x0001#16 (acceptPrologue s))) := by
  rw [exec_command (i := .encRR) rfl, issue_ready hready, bodyOf, encRRBody]

theorem exec_encWB : exec .encWB s = .next (finishOk (putRequest 0x05#8 (coilWord s.value) (acceptPrologue s))) := by
  rw [exec_command (i := .encWB) rfl, issue_ready hready, bodyOf, encWBBody, acceptPrologue_value]

theorem exec_encWR : exec .encWR s = .next (finishOk (putRequest 0x06#8 s.value (acceptPrologue s))) := by
  rw [exec_command (i := .encWR) rfl, issue_ready hready, bodyOf, encWRBody, acceptPrologue_value]

theorem exec_encRB_of_countOk (hcount : countOk s.count = true) :
    exec .encRB s = .next (finishOk (putRequest 0x01#8 s.count (acceptPrologue s))) := by
  rw [exec_encRB hready, encRBBody_of_countOk (s := acceptPrologue s) hcount, acceptPrologue_count]

theorem exec_encRB_of_not_countOk (hcount : ¬ countOk s.count = true) :
    exec .encRB s = .next { failedWith .invalidArgument s with txLen := 0 } := by
  rw [exec_encRB hready, encRBBody_of_not_countOk (s := acceptPrologue s) hcount, raiseErr_dropRequest,
    raiseErr_acceptPrologue (by decide), dropRequest]

end

/-! ### the statements -/

/-- Settles O27: COUNT in range makes the request of function code 1, any other COUNT drops the request before the
error. -/
theorem encRbBuildsReadCoils : Obligations.EncRbBuildsReadCoils := by
  unfold Obligations.EncRbBuildsReadCoils
  intro s hready
  refine ⟨fun hin => ?_, fun hout => ?_⟩
  · exact exec_builds_frame (exec_encRB_of_countOk hready ((countOk_iff _).2 hin)) rfl
  · exact exec_encRB_of_not_countOk hready (by rw [countOk_iff]; omega)

/-- Settles O28: the fields of function code 3 are ADDR and the count 1. -/
theorem encRrBuildsReadRegister : Obligations.EncRrBuildsReadRegister := by
  unfold Obligations.EncRrBuildsReadRegister
  intro s hready
  exact exec_builds_frame (exec_encRR hready) rfl

/-- Settles O29: the fields of function code 5 are ADDR and the coil word of VALUE. -/
theorem encWbBuildsWriteCoil : Obligations.EncWbBuildsWriteCoil := by
  unfold Obligations.EncWbBuildsWriteCoil
  intro s hready
  refine ⟨fun hon => ?_, fun hoff => ?_⟩
  · exact exec_builds_frame (exec_encWB hready) (by rw [coilWord_of_ne_zero hon]; rfl)
  · exact exec_builds_frame (exec_encWB hready) (by rw [hoff, coilWord_zero]; rfl)

/-- Settles O30: the fields of function code 6 are ADDR and VALUE. -/
theorem encWrBuildsWriteRegister : Obligations.EncWrBuildsWriteRegister := by
  unfold Obligations.EncWrBuildsWriteRegister
  intro s hready
  exact exec_builds_frame (exec_encWR hready) rfl

end Sys2Proof.Machine

/-! ## Proofs: the checks and the decoders

CHK_x and DEC_x at acceptance are their conditions in the order the spec lists them, read off the frame in RXBUF
(42_decoder.md R140 to R151). -/

namespace Sys2Proof.Machine

/-! ### bytes and words of a frame -/

theorem cat16_toNat (h l : Byte) : (cat16 h l).toNat = h.toNat * 256 + l.toNat := by
  have hhigh : h.toNat <<< 8 < 2 ^ 16 := by rw [Nat.shiftLeft_eq]; omega
  have hor := Nat.shiftLeft_add_eq_or_of_lt (i := 8) l.isLt h.toNat
  rw [cat16, BitVec.toNat_or, BitVec.toNat_shiftLeft, BitVec.toNat_setWidth_of_le (by decide),
    BitVec.toNat_setWidth_of_le (by decide), Nat.mod_eq_of_lt hhigh, ← hor, Nat.shiftLeft_eq]

theorem byte_getLsbD_seven_iff (b : Byte) : b.getLsbD 7 = true ↔ 0x80 ≤ b.toNat := by
  revert b
  decide

/-- The function code of an exception response is the request's with 0x80 added (30_encoding.md R91). -/
theorem exception_fc_iff {b fc : Byte} (hb : 0x80 ≤ b.toNat) (hfc : fc.toNat < 0x80) :
    b.extractLsb' 0 7 = fc.extractLsb' 0 7 ↔ b.toNat - 0x80 = fc.toNat := by
  rw [← BitVec.toNat_inj, BitVec.extractLsb'_toNat, BitVec.extractLsb'_toNat]
  omega

theorem frameOf_cat16 (body : List Byte) (hi lo : Byte) : frameOf body (cat16 hi lo) = body ++ [lo, hi] := by
  rw [frameOf, crcField, lo8_cat16, hi8_cat16]

/-- Settles O24: two last bytes are the CRC field of a frame, low byte first, and a word is its two bytes. -/
theorem crcCheckComparesTheField : Obligations.CrcCheckComparesTheField := by
  unfold Obligations.CrcCheckComparesTheField
  intro body lo hi
  rw [← frameOf_cat16, crcOk_frameOf, ← BitVec.toNat_inj, cat16_toNat]

/-! ### an accepted command and its ends -/

theorem exec_ready {i : Instr} {c : Word} (hcmd : encode i = .command c) {s : State} (hready : s.status.busy = false) :
    exec i s = .next (bodyOf i (acceptPrologue s)) := by
  rw [exec_command hcmd, issue_ready hready]

@[simp] theorem rxFrame_acceptPrologue (s : State) : rxFrame (acceptPrologue s) = rxFrame s := rfl

theorem raiseErr_recordExc_acceptPrologue (x : Byte) (s : State) :
    raiseErr .deviceException (recordExc x (acceptPrologue s)) = exceptedWith x s := rfl

theorem finishOk_setRvalid_setCoil_acceptPrologue (v : BitVec 2000) (s : State) :
    finishOk (setRvalid (setCoil v (acceptPrologue s))) = { succeededRead s with coil := v } := rfl

theorem finishOk_setRvalid_setResult_acceptPrologue (w : Word) (s : State) :
    finishOk (setRvalid (setResult w (acceptPrologue s))) = { succeededRead s with result := w } := rfl

/-! ### CHK_CRC and CHK_EXC -/

/-- R143 as one ladder over the frame. -/
theorem chkCrcBody_acceptPrologue (s : State) :
    chkCrcBody (acceptPrologue s) =
      if s.rxLen.toNat < 4 then failedWith .protocolError s
      else if crcOk (rxFrame s) = false then failedWith .crcMismatch s
      else succeeded s := by
  simp only [chkCrcBody, rxFrame_acceptPrologue, rxFrame_length, Bool.not_eq_true', finishOk_acceptPrologue,
    raiseErr_acceptPrologue (show ErrKind.protocolError ≠ .none by decide),
    raiseErr_acceptPrologue (show ErrKind.crcMismatch ≠ .none by decide)]

/-- Settles O32: the three conditions pick the three ends of the ladder. -/
theorem chkCrcReportsTheCheck : Obligations.ChkCrcReportsTheCheck := by
  unfold Obligations.ChkCrcReportsTheCheck
  intro s hready
  rw [exec_ready (i := .chkCrc) rfl hready, bodyOf, chkCrcBody_acceptPrologue]
  refine ⟨fun hshort => ?_, fun hlong hbad => ?_, fun hlong hok => ?_⟩
  · rw [if_pos hshort]
  · rw [if_neg (by omega), if_pos hbad]
  · rw [if_neg (by omega), if_neg (by rw [hok]; decide)]

/-- R144 as one ladder over the frame. -/
theorem chkExcBody_acceptPrologue (s : State) :
    chkExcBody (acceptPrologue s) =
      if s.rxLen.toNat < 4 then failedWith .protocolError s
      else if crcOk (rxFrame s) = false then failedWith .crcMismatch s
      else if 0x80 ≤ (byteAt (rxFrame s) 1).toNat then
        if s.rxLen.toNat ≠ 5 then failedWith .protocolError s
        else finishOk (recordExc (byteAt (rxFrame s) 2) (acceptPrologue s))
      else succeeded s := by
  simp only [chkExcBody, rxFrame_acceptPrologue, rxFrame_length, Bool.not_eq_true', byte_getLsbD_seven_iff,
    finishOk_acceptPrologue, raiseErr_acceptPrologue (show ErrKind.protocolError ≠ .none by decide),
    raiseErr_acceptPrologue (show ErrKind.crcMismatch ≠ .none by decide)]

/-- Settles O33: the five conditions pick the five ends of the ladder; bytes 1 and 2 of a frame of 4 bytes or more are
those of RXBUF. -/
theorem chkExcReportsTheOption : Obligations.ChkExcReportsTheOption := by
  unfold Obligations.ChkExcReportsTheOption
  intro s hready
  have hfive : s.rxLen = 5 ↔ s.rxLen.toNat = 5 := BitVec.toNat_inj.symm
  rw [exec_ready (i := .chkExc) rfl hready, bodyOf, chkExcBody_acceptPrologue]
  refine ⟨fun hshort => ?_, fun hlong hbad => ?_, fun hlong hok hnormal => ?_, fun hlong hok hexc hlen => ?_,
    fun hlong hok hexc hlen => ?_⟩
  · rw [if_pos hshort]
  · rw [if_neg (by omega), if_pos hbad]
  all_goals rw [if_neg (by omega), if_neg (by rw [hok]; decide), rxFrame_getD s (i := 1) (by omega)]
  · rw [if_neg (by omega)]
  · rw [if_pos hexc, if_pos (mt hfive.2 hlen)]
  · rw [if_pos hexc, if_neg (not_not.2 (hfive.1 hlen)), rxFrame_getD s (i := 2) (by omega)]
    rfl

/-! ### the frame check the decoders share -/

/-- `frame_check` (R142) at acceptance, for the function code of a request. -/
theorem withFrame_acceptPrologue {efc : Byte} (hefc : efc.toNat < 0x80) (k : List Byte → State → State) (s : State) :
    withFrame efc k (acceptPrologue s) =
      frameLadder efc (rxFrame s) s (k (rxFrame s) (acceptPrologue s)) := by
  have hproto := raiseErr_acceptPrologue (show ErrKind.protocolError ≠ .none by decide) s
  have hcrc := raiseErr_acceptPrologue (show ErrKind.crcMismatch ≠ .none by decide) s
  rw [withFrame, rxFrame_acceptPrologue]
  generalize rxFrame s = rx
  simp only [frameCheck, byte_getLsbD_seven_iff, frameLadder]
  by_cases hshort : rx.length < 4
  · simp [hshort, hproto]
  cases hok : crcOk rx
  · simp [hshort, hcrc]
  by_cases hexc : 0x80 ≤ (byteAt rx 1).toNat
  · have hfc := exception_fc_iff hexc hefc
    by_cases hmatch : (byteAt rx 1).toNat - 0x80 = efc.toNat
    · by_cases hfive : rx.length = 5
      · simp [hexc, hfc, hmatch, hfive, raiseErr_recordExc_acceptPrologue]
      · simp [hshort, hexc, hfc, hmatch, hfive, hproto]
    · simp [hshort, hexc, hfc, hmatch, hproto]
  · by_cases hmatch : byteAt rx 1 = efc
    · simp [hshort, hmatch, Nat.not_le.2 hefc]
    · simp [hshort, hexc, hmatch, hproto]

/-- What follows the frame check matters for a frame of 4 bytes or more. -/
theorem frameLadder_congr {efc : Byte} {rx : List Byte} {s t u : State} (h : 4 ≤ rx.length → t = u) :
    frameLadder efc rx s t = frameLadder efc rx s u := by
  by_cases hshort : rx.length < 4
  · rw [frameLadder, if_pos hshort, frameLadder, if_pos hshort]
  · rw [h (by omega)]

/-! ### DEC_RB -/

theorem coilBytes_eq (c : Word) : coilBytes c = (c.toNat + 7) / 8 := rfl

/-- R146 after the frame check. -/
theorem decRBRest_acceptPrologue {s : State} (hlong : 4 ≤ s.rxLen.toNat) :
    decRBRest (rxFrame s) (acceptPrologue s) =
      if (rxAt s 2).toNat ≠ (s.count.toNat + 7) / 8 then failedWith .protocolError s
      else if s.rxLen.toNat ≠ 5 + (s.count.toNat + 7) / 8 then failedWith .protocolError s
      else { succeededRead s with coil := unpack (rxFrame s) s.count.toNat } := by
  rw [decRBRest, rxFrame_getD s (by omega), rxFrame_length, acceptPrologue_count, coilBytes_eq,
    raiseErr_acceptPrologue (by decide), finishOk_setRvalid_setCoil_acceptPrologue]

/-- R145 on a frame as long as COUNT asks: each coil below COUNT lies in a byte of RXBUF the frame holds. -/
theorem unpack_rxFrame_getLsbD {s : State} {c i : Nat} (hc : c ≤ 2000) (hlen : s.rxLen.toNat = 5 + (c + 7) / 8)
    (hi : i < 2000) :
    (unpack (rxFrame s) c).getLsbD i = if i < c then (rxAt s (3 + i / 8)).getLsbD (i % 8) else false := by
  rw [unpack_getLsbD _ hi hc]
  by_cases hlt : i < c
  · rw [rxFrame_getD s (by omega)]
  · rw [if_neg hlt, if_neg hlt]

/-- Settles O34: COUNT decides first, then the frame check, then R146's own conditions; the coils are those the unpacker
reads. -/
theorem decRbUnpacksOrFails : Obligations.DecRbUnpacksOrFails := by
  unfold Obligations.DecRbUnpacksOrFails
  intro s hready
  rw [exec_ready (i := .decRB) rfl hready, bodyOf, decRBBody, acceptPrologue_count]
  refine ⟨fun hout => ?_, fun hleast hmost => ⟨unpack (rxFrame s) s.count.toNat, fun hlen i hi => ?_, ?_⟩⟩
  · rw [if_neg (by rw [countOk_iff]; omega), raiseErr_acceptPrologue (by decide)]
  · exact unpack_rxFrame_getLsbD hmost hlen hi
  · rw [if_pos ((countOk_iff _).2 ⟨hleast, hmost⟩), withFrame_acceptPrologue (by decide)]
    exact congrArg _ (frameLadder_congr fun h => decRBRest_acceptPrologue (by rwa [rxFrame_length] at h))

/-! ### DEC_RR -/

/-- R148 after the frame check. -/
theorem decRRRest_acceptPrologue {s : State} (hlong : 4 ≤ s.rxLen.toNat) :
    decRRRest (rxFrame s) (acceptPrologue s) =
      if rxAt s 2 ≠ 0x02#8 then failedWith .protocolError s
      else if s.rxLen.toNat ≠ 7 then failedWith .protocolError s
      else { succeededRead s with result := cat16 (rxAt s 3) (rxAt s 4) } := by
  rw [decRRRest, rxFrame_getD s (by omega), rxFrame_length, raiseErr_acceptPrologue (by decide)]
  by_cases hseven : s.rxLen.toNat = 7
  · rw [wordAt_rxFrame s (by omega), finishOk_setRvalid_setResult_acceptPrologue]
  · rw [if_pos hseven, if_pos hseven]

/-- Settles O35: the frame check, then R148's own conditions; the word is bytes 3 and 4. -/
theorem decRrExtractsTheWord : Obligations.DecRrExtractsTheWord := by
  unfold Obligations.DecRrExtractsTheWord
  intro s hready
  rw [exec_ready (i := .decRR) rfl hready, bodyOf, decRRBody, withFrame_acceptPrologue (by decide)]
  exact congrArg _ (frameLadder_congr fun h => decRRRest_acceptPrologue (by rwa [rxFrame_length] at h))

/-! ### DEC_WB and DEC_WR -/

/-- `write_ack` (R149) after the frame check. -/
theorem writeAckRest_acceptPrologue (ev : Word) (s : State) :
    writeAckRest ev (rxFrame s) (acceptPrologue s) =
      if s.rxLen.toNat ≠ 8 then failedWith .protocolError s
      else if cat16 (rxAt s 2) (rxAt s 3) ≠ s.addr then failedWith .unexpectedEcho s
      else if cat16 (rxAt s 4) (rxAt s 5) ≠ ev then failedWith .unexpectedEcho s
      else succeeded s := by
  rw [writeAckRest, rxFrame_length, acceptPrologue_addr, finishOk_acceptPrologue, raiseErr_acceptPrologue (by decide),
    raiseErr_acceptPrologue (by decide)]
  by_cases height : s.rxLen.toNat = 8
  · rw [wordAt_rxFrame s (by omega), wordAt_rxFrame s (by omega)]
  · rw [if_pos height, if_pos height]

/-- Settles O36: `write_ack` for function code 5 and the coil word of VALUE. -/
theorem decWbChecksTheEcho : Obligations.DecWbChecksTheEcho := by
  unfold Obligations.DecWbChecksTheEcho
  intro s hready
  rw [exec_ready (i := .decWB) rfl hready, bodyOf, decWBBody, acceptPrologue_value,
    withFrame_acceptPrologue (by decide), writeAckRest_acceptPrologue]
  rfl

/-- Settles O37: `write_ack` for function code 6 and VALUE. -/
theorem decWrChecksTheEcho : Obligations.DecWrChecksTheEcho := by
  unfold Obligations.DecWrChecksTheEcho
  intro s hready
  rw [exec_ready (i := .decWR) rfl hready, bodyOf, decWRBody, acceptPrologue_value,
    withFrame_acceptPrologue (by decide), writeAckRest_acceptPrologue]

end Sys2Proof.Machine

/-! ## Proofs: who writes RESULT, COIL and RVALID

Each operation leaves the three as they are or is the successful end of a read decoder (42_decoder.md R152). -/

namespace Sys2Proof.Machine

/-- From `s` to `t` no result is written: RESULT and COIL stay, and RVALID is 0 or has stayed 1 beside the same ERR. -/
structure WritesNoResult (s t : State) : Prop where
  result : t.result = s.result
  coil : t.coil = s.coil
  flags : t.status.rvalid = true → s.status.rvalid = true ∧ t.status.err = s.status.err

/-- What becomes of the results from `s` to `t`: nothing, or a read decoder succeeds; `rb` is what holds where COIL may
change, `rr` where RESULT may. -/
inductive ResultsBecome (rb rr : Prop) (s t : State) : Prop
  | unwritten (h : WritesNoResult s t)
  | readBits (hcause : rb) (hresult : t.result = s.result)
      (hend : t.status = endedStatus .none true false t.status.attempts t.status.ign)
  | readRegister (hcause : rr) (hcoil : t.coil = s.coil)
      (hend : t.status = endedStatus .none true false t.status.attempts t.status.ign)

/-- The next step may be the end of a read decoder: the CMD write of its code `c` at idle, or reception under its TXN_x
`o`. -/
def mayEndRead (c : Word) (o : Op) (s : State) : Prop :=
  (s.phase = .idle ∧ ∃ rest, s.events = .hostWrite 0x000#10 c :: rest) ∨ (s.phase = .recv ∧ s.op = o)

section
variable {s t u : State} {rb rr rb' rr' : Prop}

theorem WritesNoResult.refl (s : State) : WritesNoResult s s := ⟨rfl, rfl, fun h => ⟨h, rfl⟩⟩

theorem WritesNoResult.of_rvalid (hresult : t.result = s.result) (hcoil : t.coil = s.coil)
    (hrvalid : t.status.rvalid = false) : WritesNoResult s t :=
  ⟨hresult, hcoil, fun h => by rw [hrvalid] at h; cases h⟩

theorem WritesNoResult.trans (h : WritesNoResult s t) (h' : WritesNoResult t u) : WritesNoResult s u := by
  refine ⟨h'.result.trans h.result, h'.coil.trans h.coil, fun hu => ?_⟩
  obtain ⟨ht, herr'⟩ := h'.flags hu
  obtain ⟨hs, herr⟩ := h.flags ht
  exact ⟨hs, herr'.trans herr⟩

theorem ResultsBecome.of_unwritten (h : WritesNoResult s t) (h' : ResultsBecome rb rr t u) :
    ResultsBecome rb rr s u := by
  cases h' with
  | unwritten h' => exact .unwritten (h.trans h')
  | readBits hcause hresult hend => exact .readBits hcause (hresult.trans h.result) hend
  | readRegister hcause hcoil hend => exact .readRegister hcause (hcoil.trans h.coil) hend

theorem ResultsBecome.imp (hrb : rb → rb') (hrr : rr → rr') (h : ResultsBecome rb rr s t) :
    ResultsBecome rb' rr' s t := by
  cases h with
  | unwritten h => exact .unwritten h
  | readBits hcause hresult hend => exact .readBits (hrb hcause) hresult hend
  | readRegister hcause hcoil hend => exact .readRegister (hrr hcause) hcoil hend

/-! ### operations that write no result -/

theorem setIgn_writesNoResult (s : State) : WritesNoResult s (setIgn s) := ⟨rfl, rfl, fun h => ⟨h, rfl⟩⟩

theorem popEvent_writesNoResult (s : State) : WritesNoResult s (popEvent s) := ⟨rfl, rfl, fun h => ⟨h, rfl⟩⟩

theorem readAccess_writesNoResult (a : BitVec 10) (s : State) : WritesNoResult s (readAccess a s) :=
  ⟨rfl, rfl, fun h => ⟨h, rfl⟩⟩

theorem appendRx_writesNoResult (b : Byte) (s : State) : WritesNoResult s (appendRx b s) :=
  ⟨rfl, rfl, fun h => ⟨h, rfl⟩⟩

theorem acceptPrologue_writesNoResult (s : State) : WritesNoResult s (acceptPrologue s) := .of_rvalid rfl rfl rfl

theorem storeReg_writesNoResult (r : HostReg) (v : Word) (s : State) : WritesNoResult s (storeReg r v s) := by
  cases r with
  | rxLen =>
    simp only [storeReg]
    split
    · exact ⟨rfl, rfl, fun h => ⟨h, rfl⟩⟩
    · exact .refl s
  | _ => exact ⟨rfl, rfl, fun h => ⟨h, rfl⟩⟩

theorem writeReg_writesNoResult (r : HostReg) (v : Word) (s : State) : WritesNoResult s (writeReg r v s) := by
  obtain ⟨-, e⟩ | ⟨-, -, e⟩ | ⟨-, -, e⟩ := writeReg_cases r v s <;> rw [e]
  · exact .refl s
  · exact setIgn_writesNoResult s
  · exact storeReg_writesNoResult r v s

/-! ### the ends of a command that runs with RVALID 0 -/

section
variable (hrvalid : s.status.rvalid = false)
include hrvalid

theorem finishOk_writesNoResult : WritesNoResult s (finishOk s) := .of_rvalid rfl rfl hrvalid

theorem raiseErr_writesNoResult (k : ErrKind) : WritesNoResult s (raiseErr k s) := .of_rvalid rfl rfl hrvalid

theorem EndsInError.writesNoResult (h : EndsInError s t) : WritesNoResult s t := by
  cases h with
  | raised k _ _ h => exact h ▸ raiseErr_writesNoResult hrvalid k
  | exception x h => exact h ▸ .of_rvalid rfl rfl hrvalid

theorem writesNoResult_of_ends (h : EndsInError s t ∨ t = finishOk s) : WritesNoResult s t := by
  obtain h | rfl := h
  · exact h.writesNoResult hrvalid
  · exact finishOk_writesNoResult hrvalid

theorem encRBBody_writesNoResult {k : State → State} (hk : ∀ w, WritesNoResult s (k (putRequest 0x01#8 w s))) :
    WritesNoResult s (encRBBody k s) := by
  unfold encRBBody
  split
  · exact hk _
  · exact .of_rvalid rfl rfl hrvalid

theorem sendStep_writesNoResult (ans : TxAnswer) : WritesNoResult s (sendStep ans s) := by
  cases ans with
  | ok => exact .of_rvalid rfl rfl hrvalid
  | fail => exact .of_rvalid rfl rfl hrvalid

theorem timeoutStep_writesNoResult : WritesNoResult s (timeoutStep s) := by
  obtain ⟨-, e⟩ | ⟨-, -, e⟩ | ⟨-, -, e⟩ := timeoutStep_cases s <;> rw [e]
  · exact .refl s
  · exact .of_rvalid rfl rfl hrvalid
  · exact raiseErr_writesNoResult hrvalid _

end

/-! ### the bodies of the commands, and completion -/

/-- STATUS after a read decoder has succeeded. -/
theorem finishOk_setRvalid_status (hexcv : s.status.excv = false) :
    (finishOk (setRvalid s)).status = endedStatus .none true false s.status.attempts s.status.ign := by
  rw [← hexcv]
  rfl

section
variable (hrvalid : s.status.rvalid = false) (hexcv : s.status.excv = false)
include hrvalid hexcv

theorem decRBBody_results (hrb : rb) : ResultsBecome rb rr s (decRBBody s) := by
  obtain h | ⟨v, e⟩ := decRBBody_cases s
  · exact .unwritten (h.writesNoResult hrvalid)
  · exact e ▸ .readBits hrb rfl (finishOk_setRvalid_status (s := setCoil v s) hexcv)

theorem decRRBody_results (hrr : rr) : ResultsBecome rb rr s (decRRBody s) := by
  obtain h | ⟨w, e⟩ := decRRBody_cases s
  · exact .unwritten (h.writesNoResult hrvalid)
  · exact e ▸ .readRegister hrr rfl (finishOk_setRvalid_status (s := setResult w s) hexcv)

/-- Of the commands only DEC_RB and DEC_RR write a result. -/
theorem commandBody_results (c : Word) :
    ResultsBecome (c = 0x0020#16) (c = 0x0021#16) s (commandBody c s) := by
  obtain ⟨i, hi, e⟩ | ⟨-, e⟩ := commandBody_cases c <;> rw [e]
  · cases i with
    | decRB =>
      cases hi
      exact decRBBody_results hrvalid hexcv rfl
    | decRR =>
      cases hi
      exact decRRBody_results hrvalid hexcv rfl
    | decWB => exact .unwritten (writesNoResult_of_ends hrvalid (decWBBody_cases s))
    | decWR => exact .unwritten (writesNoResult_of_ends hrvalid (decWRBody_cases s))
    | chkCrc => exact .unwritten (writesNoResult_of_ends hrvalid (chkCrcBody_cases s))
    | chkExc =>
      rw [bodyOf]
      obtain h | h | ⟨x, h⟩ := chkExcBody_cases s
      · exact .unwritten (h.writesNoResult hrvalid)
      · exact .unwritten (h ▸ finishOk_writesNoResult hrvalid)
      · exact .unwritten (h ▸ .of_rvalid rfl rfl hrvalid)
    | encRB | txnRB =>
      exact .unwritten (encRBBody_writesNoResult hrvalid fun _ => .of_rvalid rfl rfl hrvalid)
    | xfer =>
      simp only [bodyOf, xferBody]
      split
      · exact .unwritten (.of_rvalid rfl rfl hrvalid)
      · exact .unwritten (raiseErr_writesNoResult hrvalid _)
    | _ => exact .unwritten (.of_rvalid rfl rfl hrvalid)
  · exact .unwritten (raiseErr_writesNoResult hrvalid _)

theorem complete_results : ResultsBecome (s.op = .txnRB) (s.op = .txnRR) s (complete s) := by
  obtain h | e | ⟨hop, v, e⟩ | ⟨hop, w, e⟩ := complete_cases s
  · exact .unwritten (h.writesNoResult hrvalid)
  · exact .unwritten (e ▸ finishOk_writesNoResult hrvalid)
  · exact e ▸ .readBits hop rfl (finishOk_setRvalid_status (s := setCoil v s) hexcv)
  · exact e ▸ .readRegister hop rfl (finishOk_setRvalid_status (s := setResult w s) hexcv)

theorem receive_results (hrecv : s.phase = .recv) (bs : List Byte) :
    ResultsBecome (s.op = .txnRB) (s.op = .txnRR) s (receive bs s) := by
  induction bs generalizing s with
  | nil => exact .unwritten (.refl s)
  | cons b bs ih =>
    rw [receive_cons]
    have happend := appendRx_writesNoResult b s
    obtain ⟨hno, -⟩ | ⟨-, -, e⟩ | ⟨-, -, e⟩ := rxByte_cases s b
    · exact absurd hrecv hno
    · rw [e]
      exact .of_unwritten happend (ih (s := appendRx b s) hrvalid hexcv hrecv)
    · have hidle : (complete (appendRx b s)).phase ≠ .recv := by
        rw [(complete_keeps _).1]
        decide
      rw [e, receive_dropped hidle]
      exact .of_unwritten happend (complete_results (s := appendRx b s) hrvalid hexcv)

end

/-! ### the step -/

theorem step_results (hinv : StateInv s) (hstep : step s = .next t) (hreset : ∀ rest, s.events ≠ .reset :: rest) :
    ResultsBecome (mayEndRead 0x0020#16 .txnRB s) (mayEndRead 0x0021#16 .txnRR s) s t := by
  have hpop := popEvent_writesNoResult s
  cases step_cases hstep with
  | idle _ => exact .unwritten (.refl s)
  | read a rest _ => exact .unwritten (hpop.trans (readAccess_writesNoResult a _))
  | write a v rest _ _ => exact .unwritten (hpop.trans (writeReg_writesNoResult _ v _))
  | stray _ _ _ _ => exact .unwritten hpop
  | reset rest he => exact absurd he (hreset rest)
  | command a c rest he ha =>
    rw [(hostReg_eq_cmd a).1 ha] at he
    by_cases hbusy : s.status.busy = true
    · rw [issue_busy (s := popEvent s) hbusy]
      exact .unwritten (hpop.trans (setIgn_writesNoResult _))
    · have hidle : s.phase = .idle := not_not.1 (mt hinv.busy_iff.2 hbusy)
      rw [issue_ready (s := popEvent s) (Bool.eq_false_iff.2 hbusy)]
      have hbody := commandBody_results (s := acceptPrologue (popEvent s)) rfl rfl c
      refine .of_unwritten (hpop.trans (acceptPrologue_writesNoResult _)) (hbody.imp ?_ ?_)
      · rintro rfl
        exact .inl ⟨hidle, rest, he⟩
      · rintro rfl
        exact .inl ⟨hidle, rest, he⟩
  | send ans rest _ hsend =>
    obtain ⟨-, -, hrvalid, -, -⟩ := hinv.busy_flags (by rw [hsend]; decide)
    exact .unwritten (hpop.trans (sendStep_writesNoResult (s := popEvent s) hrvalid ans))
  | rx bs rest _ =>
    by_cases hrecv : s.phase = .recv
    · obtain ⟨-, -, hrvalid, hexcv, -⟩ := hinv.busy_flags (by rw [hrecv]; decide)
      have hbytes := receive_results (s := popEvent s) hrvalid hexcv hrecv bs
      exact .of_unwritten hpop (hbytes.imp (fun hop => .inr ⟨hrecv, hop⟩) (fun hop => .inr ⟨hrecv, hop⟩))
    · rw [receive_dropped (s := popEvent s) hrecv]
      exact .unwritten hpop
  | timeout rest _ =>
    by_cases hrecv : s.phase = .recv
    · obtain ⟨-, -, hrvalid, -, -⟩ := hinv.busy_flags (by rw [hrecv]; decide)
      exact .unwritten (hpop.trans (timeoutStep_writesNoResult (s := popEvent s) hrvalid))
    · have hdropped : timeoutStep (popEvent s) = popEvent s := if_neg hrecv
      rw [hdropped]
      exact .unwritten hpop

theorem not_err_of_ended (hend : t.status = endedStatus .none true false t.status.attempts t.status.ign) :
    ¬ t.status.err = true := by
  rw [hend]
  exact Bool.false_ne_true

end

/-- Settles O38: a step that writes no result changes neither register and raises no RVALID, and one that does is the
successful end of the read decoder the clause names. -/
theorem resultsAreWrittenOnSuccessOnly : Obligations.ResultsAreWrittenOnSuccessOnly := by
  unfold Obligations.ResultsAreWrittenOnSuccessOnly
  intro s t hinv hstep hreset
  cases step_results hinv hstep hreset with
  | unwritten h =>
    obtain ⟨hresult, hcoil, hflags⟩ := h
    refine ⟨fun herr => ?_, fun hne => absurd hresult hne, fun hne => absurd hcoil hne, fun hrise hlow => ?_⟩
    · refine Bool.eq_false_iff.2 fun hrvalid => ?_
      obtain ⟨hs, hsame⟩ := hflags hrvalid
      rw [hinv.err_rvalid (hsame ▸ herr)] at hs
      cases hs
    · rw [(hflags hrise).1] at hlow
      cases hlow
  | readBits hcause hresult hend =>
    refine ⟨fun herr => absurd herr (not_err_of_ended hend), fun hne => absurd hresult hne, fun _ => ⟨hend, hcause⟩,
      fun _ _ => ⟨hend, ?_⟩⟩
    exact hcause.imp (fun ⟨hidle, rest, he⟩ => ⟨hidle, _, rest, he, .inl rfl⟩)
      (fun ⟨hrecv, hop⟩ => ⟨hrecv, .inl hop⟩)
  | readRegister hcause hcoil hend =>
    refine ⟨fun herr => absurd herr (not_err_of_ended hend), fun _ => ⟨hend, hcause⟩, fun hne => absurd hcoil hne,
      fun _ _ => ⟨hend, ?_⟩⟩
    exact hcause.imp (fun ⟨hidle, rest, he⟩ => ⟨hidle, _, rest, he, .inr rfl⟩)
      (fun ⟨hrecv, hop⟩ => ⟨hrecv, .inr hop⟩)

end Sys2Proof.Machine

/-! ## Proofs: timeouts, and how a running command ends

The step of a timeout with its one retry (43_arbiter.md R179), and the events by which BUSY falls (R183). -/

namespace Sys2Proof.Machine

section
variable {s t : State} {rest : List Event}

/-! ### the step of a timeout -/

theorem step_rxTimeout (he : s.events = .rxTimeout :: rest) :
    step s = .next (timeoutStep { s with events := rest }) := by
  have hpop : popEvent s = { s with events := rest } := by simp [popEvent, he]
  rw [← hpop]
  unfold step
  rw [he]
  rfl

theorem timeoutStep_retries (hrecv : s.phase = .recv) (hfirst : s.status.attempts.toNat < 2) :
    timeoutStep s = { s with phase := .send } := by
  obtain ⟨hno, -⟩ | ⟨-, -, e⟩ | ⟨-, hlast, -⟩ := timeoutStep_cases s
  · exact absurd hrecv hno
  · exact e
  · exact absurd hfirst hlast

theorem timeoutStep_reports (hrecv : s.phase = .recv) (hlast : 2 ≤ s.status.attempts.toNat) :
    timeoutStep s = raiseErr (timeoutKind s) s := by
  obtain ⟨hno, -⟩ | ⟨-, hfirst, -⟩ | ⟨-, -, e⟩ := timeoutStep_cases s
  · exact absurd hrecv hno
  · omega
  · exact e

/-- An error ends a command with the flags and counts it had (60_exceptions.md R201). -/
theorem raiseErr_eq_ended {k : ErrKind} (hk : k ≠ .none) (s : State) :
    raiseErr k s = { s with
      phase := .idle
      status := endedStatus k s.status.rvalid s.status.excv s.status.attempts s.status.ign } := by
  simp [raiseErr, endedStatus, Status.raise, hk]

/-! ### how a running command ends -/

/-- A timeout ends a running command only where no attempt is left (43_arbiter.md R179). -/
theorem timeoutStep_ends (hbusy : s.status.busy = true) (hend : (timeoutStep s).status.busy = false) :
    s.phase = .recv ∧ 2 ≤ s.status.attempts.toNat := by
  obtain ⟨-, e⟩ | ⟨-, -, e⟩ | ⟨hrecv, hlast, e⟩ := timeoutStep_cases s <;> rw [e] at hend
  · cases hbusy.symm.trans hend
  · cases hbusy.symm.trans hend
  · exact ⟨hrecv, not_lt.1 hlast⟩

/-- A running command ends within received bytes at the byte that completes the response (43_arbiter.md R176); RXBUF and
RX_LEN then stay, since the bytes after it are dropped (R180). -/
theorem receive_ends (bs : List Byte) (hbusy : s.status.busy = true) (hend : (receive bs s).status.busy = false) :
    s.phase = .recv ∧ ((receive bs s).rxLen.toNat = s.explen ∨
      ((receive bs s).rxLen.toNat = 5 ∧ 0x80 ≤ (rxAt (receive bs s) 1).toNat)) := by
  induction bs generalizing s with
  | nil => cases hbusy.symm.trans hend
  | cons b bs ih =>
    rw [receive_cons] at hend ⊢
    obtain ⟨hno, e⟩ | ⟨hrecv, -, e⟩ | ⟨hrecv, hfull, e⟩ := rxByte_cases s b <;> rw [e] at hend ⊢
    · exact ih hbusy hend
    · exact ih (s := appendRx b s) hbusy hend
    · obtain ⟨hidle, -, -, -, hbuf, hlen, hera, -, -⟩ := complete_keeps (appendRx b s)
      rw [receive_dropped (by rw [hidle]; decide), hlen, rxAt_congr hbuf hera, ← byte_getLsbD_seven_iff]
      exact ⟨hrecv, (rxComplete_iff _).1 hfull⟩

end

/-- Settles O54: a HOST access leaves BUSY of a running command, an answered write ends it by TX_FAIL alone, and
reception and timeouts by the completion rules of PHASE = RECV. -/
theorem nothingButResetAborts : Obligations.NothingButResetAborts := by
  unfold Obligations.NothingButResetAborts
  intro s t hinv hbusy hstep hend
  have hended : ¬ t.status.busy = true := Bool.eq_false_iff.1 hend
  cases step_cases hstep with
  | idle _ => exact absurd hbusy hended
  | read a rest _ => exact absurd hbusy hended
  | stray ans rest _ _ => exact absurd hbusy hended
  | command a c rest _ _ =>
    rw [issue_busy (s := popEvent s) hbusy] at hended
    exact absurd hbusy hended
  | write a v rest _ _ =>
    obtain ⟨-, e⟩ | ⟨-, -, e⟩ | ⟨-, hready, e⟩ := writeReg_cases (hostReg a) v (popEvent s) <;> rw [e] at hended
    · exact absurd hbusy hended
    · exact absurd hbusy hended
    · exact absurd hbusy (Bool.eq_false_iff.1 hready)
  | send ans rest he hsend =>
    cases ans with
    | ok => exact absurd hbusy hended
    | fail => exact ⟨rest, .inr (.inl ⟨hsend, he⟩)⟩
  | rx bs rest he =>
    obtain ⟨hrecv, hfull⟩ := receive_ends (s := popEvent s) bs hbusy hend
    exact ⟨rest, .inr (.inr (.inl ⟨hrecv, bs, he, hfull⟩))⟩
  | timeout rest he =>
    obtain ⟨hrecv, hlast⟩ := timeoutStep_ends (s := popEvent s) hbusy hend
    exact ⟨rest, .inr (.inr (.inr ⟨hrecv, he, le_antisymm hinv.attempts_le hlast⟩))⟩
  | reset rest he => exact ⟨rest, .inl he⟩

/-- Settles O47: the timeout of a first attempt goes back to PHASE = SEND, that of a second raises the kind RX_LEN
tells. -/
theorem timeoutRetriesOnce : Obligations.TimeoutRetriesOnce := by
  unfold Obligations.TimeoutRetriesOnce
  intro s rest he hrecv
  rw [step_rxTimeout he]
  refine ⟨fun hfirst => ?_, fun hlast hsilent => ?_, fun hlast hbytes => ?_⟩
  · rw [timeoutStep_retries (s := { s with events := rest }) hrecv hfirst]
  · have hkind : timeoutKind { s with events := rest } = .noResponse := if_pos hsilent
    rw [timeoutStep_reports (s := { s with events := rest }) hrecv hlast, hkind, raiseErr_eq_ended (by decide)]
  · have hkind : timeoutKind { s with events := rest } = .truncatedResponse := if_neg hbytes
    rw [timeoutStep_reports (s := { s with events := rest }) hrecv hlast, hkind, raiseErr_eq_ended (by decide)]

end Sys2Proof.Machine

/-! ## Proofs: the two ends of a command and the acceptance prologue

60_exceptions.md R200, R201, R203, which hold in every state. -/

namespace Sys2Proof.Machine

/-- Settles O10: each primitive is, by definition, one update of STATUS, with PHASE at the two ends and EXC at
acceptance. -/
theorem completionPrimitivesAreAsTabled : Obligations.CompletionPrimitivesAreAsTabled := by
  unfold Obligations.CompletionPrimitivesAreAsTabled
  exact ⟨fun _ => rfl, fun _ _ => rfl, fun _ => rfl⟩

end Sys2Proof.Machine

/-! ## Proofs: the state after reset

70_reset_and_hazards.md R231: what the table says of STATUS, COIL and the two buffers, as HOST reads them. The other
rows are fields of `State.afterReset` as they stand. -/

namespace Sys2Proof.Machine

theorem reset_toWord : Status.reset.toWord = 0x0000#16 := rfl

@[simp] theorem coilWordAt_zero (k : Nat) : coilWordAt 0 k = 0 := BitVec.extractLsb'_zero

theorem unspecifiedTxbuf_getD (n : Nat) {i : Nat} (h : i < 8) :
    (unspecifiedTxbuf n).toList.getD i 0 = Config.freeTxByte n i := by
  interval_cases i <;> rfl

section
variable (n : Nat) (es : List Event) (rs : List Word) (ss : List (Vector Byte 8))

/-- No byte has been written to RXBUF since the reset, so each one is the free value of that reset (R41). -/
@[simp] theorem rxAt_afterReset (i : Nat) : rxAt (State.afterReset n es rs ss) i = Config.freeRxByte n i := rfl

theorem readReg_afterReset_rxbuf (i : Nat) :
    readReg (State.afterReset n es rs ss) (.rxbuf i) = (Config.freeRxByte n i).setWidth 16 :=
  congrArg (BitVec.setWidth 16) (rxAt_afterReset n es rs ss i)

theorem readReg_afterReset_txbuf {i : Nat} (h : i < 8) :
    readReg (State.afterReset n es rs ss) (.txbuf i) = (Config.freeTxByte n i).setWidth 16 :=
  congrArg (BitVec.setWidth 16) (unspecifiedTxbuf_getD n h)

theorem readReg_afterReset_coilw (k : Nat) : readReg (State.afterReset n es rs ss) (.coilw k) = 0 :=
  coilWordAt_zero k

end

/-- Settles O1: the registers are the fields of `State.afterReset`, COIL is the zero word, and the buffer bytes HOST
reads are the free values. -/
theorem resetStateIsAsTabled : Obligations.ResetStateIsAsTabled := by
  unfold Obligations.ResetStateIsAsTabled
  refine ⟨⟨[], [], [], rfl⟩, ?_⟩
  rintro n es rs ss s rfl
  have hcoil : ∀ i < 2000, (State.afterReset n es rs ss).coil.getLsbD i = false := fun _ _ => BitVec.getLsbD_zero
  have hcoilw : ∀ k < 125, readReg (State.afterReset n es rs ss) (.coilw k) = 0 :=
    fun k _ => readReg_afterReset_coilw n es rs ss k
  have hrxbuf : ∀ i < 256, readReg (State.afterReset n es rs ss) (.rxbuf i) = (Config.freeRxByte n i).setWidth 16 :=
    fun i _ => readReg_afterReset_rxbuf n es rs ss i
  have htxbuf : ∀ i < 8, readReg (State.afterReset n es rs ss) (.txbuf i) = (Config.freeTxByte n i).setWidth 16 :=
    fun _ hi => readReg_afterReset_txbuf n es rs ss hi
  exact ⟨reset_toWord, rfl, rfl, rfl, rfl, rfl, rfl, rfl, rfl, rfl, rfl, hcoil, hcoilw, rfl, hrxbuf, htxbuf⟩

end Sys2Proof.Machine

/-! ## Proofs: what an accepted command does

The ends of a command's body after the prologue, with the CMD value that leads to each (30_encoding.md R81, R84). -/

namespace Sys2Proof.Machine

/-- What the body of a command makes of the accepted state `s`; `c` is the CMD value where it matters. -/
inductive BodyTo (c : Word) (s : State) : State → Prop
  | failed {t : State} (h : EndsInError s t) : BodyTo c s t
  | unencodable (hc : encodes c) : BodyTo c s (raiseErr .invalidArgument (dropRequest s))
  | succeeded : BodyTo c s (finishOk s)
  | reported (x : Byte) : BodyTo c s (finishOk (recordExc x s))
  | crcInitialised (hc : c = 0x0001#16) : BodyTo c s (finishOk (setCrc crcInitial s))
  | crcFed (hc : c = 0x0002#16) : BodyTo c s (finishOk (setCrc (crcStep s.crc s.data) s))
  | readBits (v : BitVec 2000) : BodyTo c s (finishOk (setRvalid (setCoil v s)))
  | readRegister (w : Word) : BodyTo c s (finishOk (setRvalid (setResult w s)))
  | encoded (hc : encodes c) (fc : Byte) (w : Word) (hreq : requestOk (buildReq s.slave fc s.addr w) = true) :
      BodyTo c s (finishOk (putRequest fc w s))
  | started (hc : encodes c) (o : Op) (fc : Byte) (w : Word)
      (hreq : requestOk (buildReq s.slave fc s.addr w) = true)
      (hargs : requestFitsArgs (startExchange o (putRequest fc w s))) :
      BodyTo c s (startExchange o (putRequest fc w s))
  | transfers (hlen : s.txLen = 8) : BodyTo c s (startExchange .xfer s)

/-! ### the requests the encoders make -/

theorem requestOk_buildReq (sl fc : Byte) (a w : Word) :
    requestOk (buildReq sl fc a w) = true ↔
      ∃ i, decodeRequestFields sl fc a w (crc16 (sixBody sl fc a w)) = .instr i ∧ wellFormed i = true := by
  rw [requestOk, decode_buildReq]
  cases decodeRequestFields sl fc a w (crc16 (sixBody sl fc a w)) <;> simp

theorem crcFits_self (body : List Byte) : crcFits body (crc16 body) = true := decide_eq_true rfl

theorem requestOk_readBits (sl : Byte) (a : Word) {n : Word} (hn : countOk n = true) :
    requestOk (buildReq sl 0x01#8 a n) = true := by
  rw [requestOk_buildReq]
  refine ⟨.reqReadBits sl a n _, rfl, ?_⟩
  rw [wellFormed, hn, crcFits_self]
  rfl

theorem requestOk_readRegister (sl : Byte) (a : Word) : requestOk (buildReq sl 0x03#8 a 0x0001#16) = true := by
  rw [requestOk_buildReq]
  exact ⟨.reqReadRegister sl a _, rfl, crcFits_self _⟩

theorem requestOk_writeBit (sl : Byte) (a value : Word) :
    requestOk (buildReq sl 0x05#8 a (coilWord value)) = true := by
  rw [requestOk_buildReq]
  by_cases hv : value = 0
  · rw [hv, coilWord_zero]
    exact ⟨.reqWriteBitOff sl a _, rfl, crcFits_self _⟩
  · rw [coilWord_of_ne_zero hv]
    exact ⟨.reqWriteBitOn sl a _, rfl, crcFits_self _⟩

theorem requestOk_writeRegister (sl : Byte) (a v : Word) : requestOk (buildReq sl 0x06#8 a v) = true := by
  rw [requestOk_buildReq]
  exact ⟨.reqWriteRegister sl a v _, rfl, crcFits_self _⟩

/-! ### every body has one of these ends -/

section
variable {c : Word} {s : State}

theorem BodyTo.of_ends {t : State} (h : EndsInError s t ∨ t = finishOk s) : BodyTo c s t := by
  obtain h | rfl := h
  · exact .failed h
  · exact .succeeded

theorem encRBBody_bodyTo (hc : encodes c) {k : State → State}
    (hk : countOk s.count = true → BodyTo c s (k (putRequest 0x01#8 s.count s))) : BodyTo c s (encRBBody k s) := by
  by_cases hcount : countOk s.count = true
  · rw [encRBBody_of_countOk hcount]
    exact hk hcount
  · rw [encRBBody_of_not_countOk hcount]
    exact .unencodable hc

theorem commandBody_bodyTo (c : Word) (s : State) : BodyTo c s (commandBody c s) := by
  obtain ⟨i, hi, e⟩ | ⟨-, e⟩ := commandBody_cases c <;> rw [e]
  · cases i with
    | crcInit =>
      cases hi
      exact .crcInitialised rfl
    | crcFeed =>
      cases hi
      exact .crcFed rfl
    | chkCrc => exact .of_ends (chkCrcBody_cases s)
    | chkExc =>
      obtain h | h | ⟨x, h⟩ := chkExcBody_cases s
      · exact .failed h
      · exact .of_ends (.inr h)
      · rw [bodyOf, h]
        exact .reported x
    | encRB =>
      cases hi
      have hc : encodes 0x0010#16 := by simp [encodes]
      exact encRBBody_bodyTo hc fun hcount => .encoded hc _ _ (requestOk_readBits _ _ hcount)
    | encRR =>
      cases hi
      exact .encoded (by simp [encodes]) _ _ (requestOk_readRegister _ _)
    | encWB =>
      cases hi
      exact .encoded (by simp [encodes]) _ _ (requestOk_writeBit _ _ _)
    | encWR =>
      cases hi
      exact .encoded (by simp [encodes]) _ _ (requestOk_writeRegister _ _ _)
    | decRB =>
      obtain h | ⟨v, h⟩ := decRBBody_cases s
      · exact .failed h
      · rw [bodyOf, h]
        exact .readBits v
    | decRR =>
      obtain h | ⟨w, h⟩ := decRRBody_cases s
      · exact .failed h
      · rw [bodyOf, h]
        exact .readRegister w
    | decWB => exact .of_ends (decWBBody_cases s)
    | decWR => exact .of_ends (decWRBody_cases s)
    | xfer =>
      by_cases hlen : s.txLen = 8
      · rw [bodyOf, xferBody, if_pos hlen]
        exact .transfers hlen
      · rw [bodyOf, xferBody, if_neg hlen]
        exact .failed (.raised _ (by decide) (by decide) rfl)
    | txnRB =>
      cases hi
      have hc : encodes 0x0040#16 := by simp [encodes]
      exact encRBBody_bodyTo hc fun hcount => .started hc _ _ _ (requestOk_readBits _ _ hcount) ⟨hcount, rfl⟩
    | txnRR =>
      cases hi
      exact .started (by simp [encodes]) _ _ _ (requestOk_readRegister _ _) rfl
    | txnWB =>
      cases hi
      exact .started (by simp [encodes]) _ _ _ (requestOk_writeBit _ _ _) rfl
    | txnWR =>
      cases hi
      exact .started (by simp [encodes]) _ _ _ (requestOk_writeRegister _ _ _) rfl
    | _ => cases hi
  · exact .failed (.raised _ (by decide) (by decide) rfl)

end

end Sys2Proof.Machine

/-! ## Proofs: the invariants

`StateInv` is kept because its clauses about the buffers and ATTEMPTS hold through every operation, an ended command
needs no more than these, and a running one keeps its flags, its request and its arguments (10_state.md R43). -/

namespace Sys2Proof.Machine

/-- The clauses of `StateInv` that speak of neither PHASE nor a flag. -/
structure RegisterInv (s : State) : Prop where
  rxLen_le : s.rxLen.toNat ≤ 256
  txLen_eq : s.txLen = 0 ∨ s.txLen = 8
  attempts_le : s.status.attempts.toNat ≤ 2
  rxbuf_wf : Memory.wf s.rxbuf
  request_ok : s.txLen = 8 → requestOk s.txbuf = true

section
variable {s t : State}

theorem StateInv.registers (h : StateInv s) : RegisterInv s :=
  ⟨h.rxLen_le, h.txLen_eq, h.attempts_le, h.rxbuf_wf, h.request_ok⟩

/-- The registers `RegisterInv` reads. -/
theorem RegisterInv.congr (h : RegisterInv s) (hrxLen : t.rxLen = s.rxLen) (hrxbuf : t.rxbuf = s.rxbuf)
    (htxLen : t.txLen = s.txLen) (htxbuf : t.txbuf = s.txbuf) (hattempts : t.status.attempts = s.status.attempts) :
    RegisterInv t := by
  obtain ⟨hlen, htx, hatt, hwf, hreq⟩ := h
  exact ⟨hrxLen ▸ hlen, htxLen ▸ htx, hattempts ▸ hatt, hrxbuf ▸ hwf, htxLen ▸ htxbuf ▸ hreq⟩

theorem RegisterInv.putRequest (h : RegisterInv s) {fc : Byte} {w : Word}
    (hreq : requestOk (buildReq s.slave fc s.addr w) = true) : RegisterInv (putRequest fc w s) :=
  ⟨h.rxLen_le, .inr rfl, h.attempts_le, h.rxbuf_wf, fun _ => hreq⟩

theorem RegisterInv.dropRequest (h : RegisterInv s) : RegisterInv (dropRequest s) :=
  ⟨h.rxLen_le, .inl rfl, h.attempts_le, h.rxbuf_wf, by simp⟩

theorem RegisterInv.acceptPrologue (h : RegisterInv s) : RegisterInv (acceptPrologue s) :=
  ⟨h.rxLen_le, h.txLen_eq, by simp, h.rxbuf_wf, h.request_ok⟩

theorem RegisterInv.appendRx (h : RegisterInv s) (b : Byte) (hroom : s.rxLen.toNat < 256) :
    RegisterInv (appendRx b s) := by
  refine ⟨?_, h.txLen_eq, h.attempts_le, setRx_wf _ b h.rxbuf_wf, h.request_ok⟩
  rw [appendRx_toNat b s (by omega)]
  omega

theorem RegisterInv.storeReg (h : RegisterInv s) (r : HostReg) (v : Word) : RegisterInv (storeReg r v s) := by
  cases r with
  | rxLen =>
    rw [Machine.storeReg]
    split
    · rename_i hv
      refine ⟨?_, h.txLen_eq, h.attempts_le, h.rxbuf_wf, h.request_ok⟩
      show (v.setWidth 9).toNat ≤ 256
      rw [BitVec.toNat_setWidth]
      omega
    · exact h
  | rxbuf i => exact ⟨h.rxLen_le, h.txLen_eq, h.attempts_le, setRx_wf i _ h.rxbuf_wf, h.request_ok⟩
  | _ => exact h.congr rfl rfl rfl rfl rfl

/-! ### states with no running command -/

theorem StateInv.of_idle (h : RegisterInv t) (hphase : t.phase = .idle) (hbusy : t.status.busy = false)
    (herr : t.status.err = true ↔ t.status.errKind ≠ .none) (hrvalid : t.status.err = true → t.status.rvalid = false)
    (hkind : t.status.errKind ≠ .nonContiguousBundle) : StateInv t where
  rxLen_le := h.rxLen_le
  txLen_eq := h.txLen_eq
  busy_iff := by simp [hbusy, hphase]
  err_iff := herr
  attempts_le := h.attempts_le
  done_idle := fun _ => hbusy
  recv_open := by simp [hphase]
  rxbuf_wf := h.rxbuf_wf
  request_ok := h.request_ok
  busy_request := by simp [hphase]
  busy_args := by simp [hphase]
  send_attempts := by simp [hphase]
  recv_attempts := by simp [hphase]
  busy_flags := by simp [hphase]
  err_rvalid := hrvalid
  kind_used := hkind

theorem StateInv.finishOk (h : RegisterInv s) : StateInv (finishOk s) :=
  .of_idle (h.congr rfl rfl rfl rfl rfl) rfl rfl (by simp) (by simp) (by simp)

theorem StateInv.raiseErr (h : RegisterInv s) (hrvalid : s.status.rvalid = false) {k : ErrKind} (hk : k ≠ .none)
    (hk' : k ≠ .nonContiguousBundle) : StateInv (raiseErr k s) :=
  .of_idle (h.congr rfl rfl rfl rfl rfl) rfl rfl (by simp [hk]) (by simp [hrvalid]) hk'

theorem EndsInError.stateInv (h : EndsInError s t) (hreg : RegisterInv s) (hrvalid : s.status.rvalid = false) :
    StateInv t := by
  cases h with
  | raised k hk hk' h => exact h ▸ .raiseErr hreg hrvalid hk hk'
  | exception x h =>
    have hrec : RegisterInv (recordExc x s) := hreg.congr rfl rfl rfl rfl rfl
    exact h ▸ .raiseErr hrec hrvalid (by decide) (by decide)

theorem stateInv_complete (hreg : RegisterInv s) (hrvalid : s.status.rvalid = false) : StateInv (complete s) := by
  obtain h | e | ⟨-, v, e⟩ | ⟨-, w, e⟩ := complete_cases s
  · exact h.stateInv hreg hrvalid
  · exact e ▸ .finishOk hreg
  · exact e ▸ .finishOk (s := setRvalid (setCoil v s)) (hreg.congr rfl rfl rfl rfl rfl)
  · exact e ▸ .finishOk (s := setRvalid (setResult w s)) (hreg.congr rfl rfl rfl rfl rfl)

theorem StateInv.idle_of_ready (h : StateInv s) (hready : s.status.busy = false) : s.phase = .idle :=
  not_not.1 fun hp => Bool.false_ne_true (hready.symm.trans (h.busy_iff.2 hp))

theorem StateInv.storeReg (h : StateInv s) (hready : s.status.busy = false) (r : HostReg) (v : Word) :
    StateInv (storeReg r v s) := by
  have hkeep : (Machine.storeReg r v s).status = s.status ∧ (Machine.storeReg r v s).phase = s.phase := by
    cases r with
    | rxLen => rw [Machine.storeReg]; split <;> exact ⟨rfl, rfl⟩
    | _ => exact ⟨rfl, rfl⟩
  obtain ⟨hstatus, hphase⟩ := hkeep
  refine .of_idle (h.registers.storeReg r v) (hphase.trans (h.idle_of_ready hready)) ?_ ?_ ?_ ?_ <;> rw [hstatus]
  · exact hready
  · exact h.err_iff
  · exact h.err_rvalid
  · exact h.kind_used

theorem stateInv_afterReset (n : Nat) (es : List Event) (rs : List Word) (ss : List (Vector Byte 8)) :
    StateInv (State.afterReset n es rs ss) :=
  .of_idle ⟨Nat.zero_le _, .inl rfl, Nat.zero_le _, Memory.wf_nil, by simp [State.afterReset]⟩ rfl rfl
    (by simp [State.afterReset, Status.reset]) (by simp [State.afterReset, Status.reset])
    (by simp [State.afterReset, Status.reset])

/-! ### fields no invariant reads -/

/-- IGN, the schedule, and what HOST and CHANNEL have seen. -/
theorem StateInv.outside (h : StateInv s) (ign : Bool) (es : List Event) (rs : List Word) :
    StateInv { s with status := { s.status with ign := ign }, events := es, reads := rs } where
  rxLen_le := h.rxLen_le
  txLen_eq := h.txLen_eq
  busy_iff := h.busy_iff
  err_iff := h.err_iff
  attempts_le := h.attempts_le
  done_idle := h.done_idle
  recv_open := h.recv_open
  rxbuf_wf := h.rxbuf_wf
  request_ok := h.request_ok
  busy_request := h.busy_request
  busy_args := h.busy_args
  send_attempts := h.send_attempts
  recv_attempts := h.recv_attempts
  busy_flags := h.busy_flags
  err_rvalid := h.err_rvalid
  kind_used := h.kind_used

theorem StateInv.withEvents (h : StateInv s) (es : List Event) : StateInv { s with events := es } :=
  h.outside s.status.ign es s.reads

theorem StateInv.setIgn (h : StateInv s) : StateInv (setIgn s) := h.outside true s.events s.reads

theorem StateInv.popEvent (h : StateInv s) : StateInv (popEvent s) := h.withEvents s.events.tail

theorem StateInv.readAccess (h : StateInv s) (a : BitVec 10) : StateInv (readAccess a s) :=
  h.outside s.status.ign s.events (s.reads ++ [readReg s (hostReg a)])

theorem StateInv.writeReg (h : StateInv s) (r : HostReg) (v : Word) : StateInv (writeReg r v s) := by
  obtain ⟨-, e⟩ | ⟨-, -, e⟩ | ⟨-, hready, e⟩ := writeReg_cases r v s <;> rw [e]
  · exact h
  · exact h.setIgn
  · exact h.storeReg hready r v

/-! ### states with a running command -/

/-- What an accepted multi-step command leaves where it starts its exchange. -/
theorem StateInv.startExchange (hreg : RegisterInv s) (hlen : s.txLen = 8) {o : Op}
    (hargs : requestFitsArgs (startExchange o s)) {f : Status} (hstatus : s.status = f.accept) (hexc : s.exc = 0) :
    StateInv (startExchange o s) where
  rxLen_le := hreg.rxLen_le
  txLen_eq := hreg.txLen_eq
  busy_iff := by simp
  err_iff := by simp [hstatus]
  attempts_le := hreg.attempts_le
  done_idle := by simp [hstatus]
  recv_open := by simp
  rxbuf_wf := hreg.rxbuf_wf
  request_ok := hreg.request_ok
  busy_request := fun _ => ⟨hlen, rfl⟩
  busy_args := fun _ => hargs
  send_attempts := by simp [hstatus]
  recv_attempts := by simp
  busy_flags := by simp [hstatus, hexc]
  err_rvalid := by simp [hstatus]
  kind_used := by simp [hstatus]

/-- A command that runs on: its flags, request and arguments stay, PHASE is the one given. -/
theorem StateInv.running (h : StateInv s) (hbusy : s.phase ≠ .idle) {p : Phase} (hp : p ≠ .idle) {n : BitVec 9}
    {m : List Host.Cell} {a : BitVec 2} (sent : List (Vector Byte 8))
    (hreg : RegisterInv { s with rxLen := n, rxbuf := m, status := { s.status with attempts := a } })
    (hopen : p = .recv → n.toNat < s.explen ∧
      (n.toNat < 5 ∨ (rxAt { s with rxbuf := m } 1).getLsbD 7 = false))
    (hsend : p = .send → a.toNat < 2) (hrecv : p = .recv → 1 ≤ a.toNat) :
    StateInv { s with
      phase := p, rxLen := n, rxbuf := m, sent := sent, status := { s.status with attempts := a } } where
  rxLen_le := hreg.rxLen_le
  txLen_eq := hreg.txLen_eq
  busy_iff := by simp [hp, h.busy_iff, hbusy]
  err_iff := h.err_iff
  attempts_le := hreg.attempts_le
  done_idle := h.done_idle
  recv_open := hopen
  rxbuf_wf := hreg.rxbuf_wf
  request_ok := h.request_ok
  busy_request := fun _ => h.busy_request hbusy
  busy_args := fun _ => h.busy_args hbusy
  send_attempts := hsend
  recv_attempts := hrecv
  busy_flags := fun _ => h.busy_flags hbusy
  err_rvalid := h.err_rvalid
  kind_used := h.kind_used

theorem StateInv.explen_bounds (h : StateInv s) (hbusy : s.phase ≠ .idle) : 6 ≤ s.explen ∧ s.explen ≤ 255 := by
  obtain ⟨hlen, hexplen⟩ := h.busy_request hbusy
  rw [hexplen]
  exact explenOf_bounds (h.request_ok hlen)

theorem StateInv.not_rvalid (h : StateInv s) (hbusy : s.phase ≠ .idle) : s.status.rvalid = false := by
  obtain ⟨-, -, hrvalid, -, -⟩ := h.busy_flags hbusy
  exact hrvalid

theorem attempts_add_one {s : State} (h : s.status.attempts.toNat < 2) :
    (s.status.attempts + 1).toNat = s.status.attempts.toNat + 1 := by
  rw [BitVec.toNat_add]
  have : (1 : BitVec 2).toNat = 1 := rfl
  omega

theorem StateInv.sendStep (h : StateInv s) (hsend : s.phase = .send) (ans : TxAnswer) : StateInv (sendStep ans s) := by
  have hbusy : s.phase ≠ .idle := by rw [hsend]; decide
  have hatt := attempts_add_one (h.send_attempts hsend)
  have hfirst := h.send_attempts hsend
  have hreg : RegisterInv (chanWrite s) := by
    refine ⟨Nat.zero_le _, h.txLen_eq, ?_, h.rxbuf_wf, h.request_ok⟩
    rw [chanWrite_status, hatt]
    omega
  cases ans with
  | ok =>
    obtain ⟨hmin, -⟩ := h.explen_bounds hbusy
    exact h.running (n := 0) hbusy (by decide) _ (hreg.congr rfl rfl rfl rfl rfl)
      (fun _ => ⟨Nat.lt_of_lt_of_le (by decide) hmin, .inl (by decide)⟩) (by simp) (fun _ => by omega)
  | fail => exact .raiseErr hreg (h.not_rvalid hbusy) (by decide) (by decide)

theorem StateInv.rxByte (h : StateInv s) (b : Byte) : StateInv (rxByte s b) := by
  obtain ⟨-, e⟩ | ⟨hrecv, hopen, e⟩ | ⟨hrecv, -, e⟩ := rxByte_cases s b <;> rw [e]
  · exact h
  all_goals
    have hbusy : s.phase ≠ .idle := by rw [hrecv]; decide
    obtain ⟨-, hmax⟩ := h.explen_bounds hbusy
    obtain ⟨hlt, hseven⟩ := h.recv_open hrecv
    have hreg := h.registers.appendRx b (by omega)
  · have hlen := appendRx_toNat b s (by omega)
    rw [← Bool.not_eq_true, rxComplete_iff, hlen, appendRx_explen, not_or, not_and] at hopen
    obtain ⟨hne, hnot⟩ := hopen
    have hstays : StateInv { s with
        phase := .recv, rxLen := s.rxLen + 1, rxbuf := (Machine.appendRx b s).rxbuf, sent := s.sent,
        status := { s.status with attempts := s.status.attempts } } := by
      refine h.running hbusy (by decide) s.sent hreg (fun _ => ⟨?_, ?_⟩) (by simp) fun _ => h.recv_attempts hrecv
      · rw [← appendRx_rxLen b, hlen]
        omega
      · rw [← appendRx_rxLen b, hlen]
        by_cases hfive : s.rxLen.toNat + 1 = 5
        · exact .inr (Bool.eq_false_iff.2 (hnot hfive))
        · obtain hfew | hclear := hseven
          · exact .inl (by omega)
          · by_cases hfew : s.rxLen.toNat < 5
            · exact .inl (by omega)
            · right
              rw [← hclear, ← rxAt_appendRx_other s b (show 1 ≠ s.rxLen.toNat by omega)]
              rfl
    rw [← hrecv] at hstays
    exact hstays
  · exact stateInv_complete hreg (h.not_rvalid hbusy)

theorem StateInv.timeoutStep (h : StateInv s) : StateInv (timeoutStep s) := by
  obtain ⟨-, e⟩ | ⟨hrecv, hfirst, e⟩ | ⟨hrecv, -, e⟩ := timeoutStep_cases s <;> rw [e]
  · exact h
  all_goals have hbusy : s.phase ≠ .idle := by rw [hrecv]; decide
  · exact h.running hbusy (by decide) s.sent h.registers (by simp) (fun _ => hfirst) (by simp)
  · obtain hkind | hkind := timeoutKind_cases s <;> rw [hkind] <;>
      exact .raiseErr h.registers (h.not_rvalid hbusy) (by decide) (by decide)

/-! ### the step -/

/-- An accepted command leaves a state that meets the invariants, whatever the flags before it were. -/
theorem BodyTo.stateInv {c : Word} (h : BodyTo c (acceptPrologue s) t) (hreg : RegisterInv s) : StateInv t := by
  have hacc := hreg.acceptPrologue
  cases h with
  | failed h => exact h.stateInv hacc rfl
  | unencodable _ => exact .raiseErr hacc.dropRequest rfl (by decide) (by decide)
  | encoded _ fc w hreq => exact .finishOk (hacc.putRequest hreq)
  | started _ o fc w hreq hargs => exact .startExchange (hacc.putRequest hreq) rfl hargs (f := s.status) rfl rfl
  | transfers hlen => exact .startExchange hacc hlen trivial (f := s.status) rfl rfl
  | _ => exact .finishOk (hacc.congr rfl rfl rfl rfl rfl)

theorem StateInv.issue (h : StateInv s) (c : Word) : StateInv (issue (commandBody c) s) := by
  by_cases hbusy : s.status.busy = true
  · rw [issue_busy hbusy]
    exact h.setIgn
  · rw [issue_ready (Bool.eq_false_iff.2 hbusy)]
    exact (commandBody_bodyTo c _).stateInv h.registers

theorem StateInv.step (h : StateInv s) (hstep : step s = .next t) : StateInv t := by
  have hpop := h.popEvent
  cases step_cases hstep with
  | idle _ => exact h
  | read a rest _ => exact hpop.readAccess a
  | write a v rest _ _ => exact hpop.writeReg _ v
  | command a c rest _ _ => exact hpop.issue c
  | send ans rest _ hsend => exact hpop.sendStep hsend ans
  | stray _ _ _ _ => exact hpop
  | rx bs rest _ => exact receive_keeps (fun _ b h => h.rxByte b) hpop bs
  | timeout rest _ => exact hpop.timeoutStep
  | reset rest _ => exact stateInv_afterReset _ _ _ _

end

/-- Settles O4: each kind of step keeps the invariants (`StateInv.step`), and R43's are clauses of them. -/
theorem everyStepKeepsInvariant : Obligations.EveryStepKeepsInvariant := by
  unfold Obligations.EveryStepKeepsInvariant
  refine ⟨fun s t h hstep => h.step hstep, fun s h => ?_⟩
  exact ⟨h.rxLen_le, h.txLen_eq, h.busy_iff, h.err_iff, h.attempts_le, h.done_idle, h.recv_open⟩

/-- Settles O3: the base case, after reset number 0 with nothing scheduled. -/
theorem invariantHoldsAtReset : Obligations.InvariantHoldsAtReset := stateInv_afterReset 0 [] [] []

end Sys2Proof.Machine

/-! ## Proofs: encode, decode, run

The decoder undoes the encoder (30_encoding.md sections 1 and 2), and a step runs what is decoded. -/

namespace Sys2Proof.Machine

/-! ### the decoder on each frame the encoder makes -/

section
variable (sl : Byte) (c : Word)

theorem decodeRequest_frameOf (fc : Byte) (a w : Word) :
    decodeRequest (frameOf (sixBody sl fc a w) c) = decodeRequestFields sl fc a w c := by
  simp [frameOf, sixBody, crcField, decodeRequest]

theorem decodeResponse_writeBitEcho (a e : Word) :
    decodeResponse (frameOf (sixBody sl 0x05#8 a e) c) = .instr (.rspWriteBitEcho sl a e c) := by
  simp [frameOf, sixBody, crcField, decodeResponse, decodeEcho]

theorem decodeResponse_writeRegisterEcho (a e : Word) :
    decodeResponse (frameOf (sixBody sl 0x06#8 a e) c) = .instr (.rspWriteRegisterEcho sl a e c) := by
  simp [frameOf, sixBody, crcField, decodeResponse, decodeEcho]

theorem decodeResponse_readRegister (w : Word) :
    decodeResponse (frameOf (readRegisterBody sl w) c) = .instr (.rspReadRegister sl w c) := by
  simp [frameOf, readRegisterBody, crcField, decodeResponse, decodeReadRegister]

/-- The byte count says where the data ends, as long as it fits a byte. -/
theorem decodeReadBits_frame {d : List Byte} (hd : d.length < 256) :
    decodeReadBits sl (BitVec.ofNat 8 d.length :: (d ++ crcField c)) = .instr (.rspReadBits sl d c) := by
  have hcount : (BitVec.ofNat 8 d.length).toNat = d.length := by
    rw [BitVec.toNat_ofNat]
    omega
  rw [decodeReadBits, hcount, if_pos (by simp [crcField]), List.take_left]
  simp [crcField, List.getD_eq_getElem?_getD]

theorem decodeResponse_readBits {d : List Byte} (hd : d.length < 256) :
    decodeResponse (frameOf (readBitsBody sl d) c) = .instr (.rspReadBits sl d c) :=
  decodeReadBits_frame sl c hd

theorem exceptionCode_getLsbD_seven (f : BitVec 7) : (0x80#8 ||| f.setWidth 8).getLsbD 7 = true := by
  revert f
  decide

theorem exceptionCode_extract (f : BitVec 7) : (0x80#8 ||| f.setWidth 8).extractLsb' 0 7 = f := by
  revert f
  decide

theorem decodeResponse_exception (f : BitVec 7) (x : Byte) :
    decodeResponse (frameOf (exceptionBody sl f x) c) = .instr (.rspException sl f x c) := by
  have hframe : frameOf (exceptionBody sl f x) c = [sl, 0x80#8 ||| f.setWidth 8, x, lo8 c, hi8 c] := rfl
  rw [hframe, decodeResponse, if_pos (exceptionCode_getLsbD_seven f), decodeException, exceptionCode_extract,
    cat16_hi8_lo8]

end

theorem decode_encode_of_command {i : Instr} {c : Word} (h : encode i = .command c) :
    decode (encode i) = .instr i := by
  rw [h]
  exact decodeCommand_of_encode h

/-- Settles O5: a command's code is that of one row of the table, and each frame decodes by its function code and its
fixed fields. -/
theorem decodeOfEncodeIsTheInstruction : Obligations.DecodeOfEncodeIsTheInstruction := by
  unfold Obligations.DecodeOfEncodeIsTheInstruction
  intro i hwf
  cases i with
  | reqReadBits sl a n c => exact decodeRequest_frameOf sl c _ a n
  | reqReadRegister sl a c => exact decodeRequest_frameOf sl c _ a _
  | reqWriteBitOn sl a c => exact decodeRequest_frameOf sl c _ a _
  | reqWriteBitOff sl a c => exact decodeRequest_frameOf sl c _ a _
  | reqWriteRegister sl a v c => exact decodeRequest_frameOf sl c _ a v
  | rspReadBits sl d c =>
    rw [wellFormed, Bool.and_eq_true, decide_eq_true_eq] at hwf
    obtain ⟨⟨-, hmost⟩, -⟩ := hwf
    exact decodeResponse_readBits sl c (by omega)
  | rspReadRegister sl w c => exact decodeResponse_readRegister sl c w
  | rspWriteBitEcho sl a e c => exact decodeResponse_writeBitEcho sl c a e
  | rspWriteRegisterEcho sl a e c => exact decodeResponse_writeRegisterEcho sl c a e
  | rspException sl f x c => exact decodeResponse_exception sl c f x
  | _ => exact decode_encode_of_command rfl

/-- Settles O7: eight closed evaluations of the decoder. -/
theorem specWordsDecode : Obligations.SpecWordsDecode := by
  unfold Obligations.SpecWordsDecode
  decide

/-! ### what runs is what was decoded -/

theorem writeCmd_of_decode {c : Word} {i : Instr} (h : decode (.command c) = .instr i) (s : State) :
    writeCmd c s = exec i s := by
  rw [writeCmd, h]

theorem txAccess_of_decode {s : State} {i : Instr} (hsend : s.phase = .send)
    (h : decode (.request s.txbuf.toList) = .instr i) : txAccess s = exec i s := by
  rw [txAccess, if_pos hsend, h]

theorem step_tx {s : State} {ans : TxAnswer} {rest : List Event} (he : s.events = .tx ans :: rest) :
    step s = txAccess s := by
  rw [step, he]
  rfl

/-- Settles O6: the step of a CMD write and that of received bytes take the entry off and run the row, the SEND step
runs the row on the whole schedule. -/
theorem stepRunsTheDecodedInstruction : Obligations.StepRunsTheDecodedInstruction := by
  unfold Obligations.StepRunsTheDecodedInstruction
  intro s rest i
  refine ⟨fun a c he ha hi => ?_, fun bs he hi => ?_, fun ans he hsend hi => ?_⟩
  · rw [step_hostWrite he, writeAccess, if_pos ((hostReg_eq_cmd a).2 ha), writeCmd_of_decode hi]
  · rw [step_rx he, exec_response (encode_of_decodeResponse hi)]
  · rw [step_tx he, txAccess_of_decode hsend hi]

/-- Settles O9: an instruction's form says whether it issues a command, transmits or receives, and each of these answers
a next state. -/
theorem nothingStopsTheMachine : Obligations.NothingStopsTheMachine := by
  unfold Obligations.NothingStopsTheMachine
  refine ⟨fun i s => ?_, fun s => ?_⟩
  · cases hi : encode i with
    | command c => exact ⟨_, exec_command hi s⟩
    | request bs => exact ⟨_, exec_request hi s⟩
    | response bs => exact ⟨_, exec_response hi s⟩
  · obtain ⟨t, ht, -⟩ := step_total s
    exact ⟨t, ht⟩

end Sys2Proof.Machine

/-! ## Proofs: the HOST register map

What a HOST read of each word address returns, what a write of an RWP word stores, and who writes IGN (10_state.md
R22 to R30, R41). -/

namespace Sys2Proof.Machine

/-! ### reads -/

theorem readReg_popEvent (s : State) (r : HostReg) : readReg (popEvent s) r = readReg s r := by
  cases r <;> rfl

theorem step_hostRead {s : State} {a : BitVec 10} {rest : List Event} (he : s.events = .hostRead a :: rest) :
    step s = .next (readAccess a (popEvent s)) := by
  rw [step, he]
  rfl

/-- Settles O11: taking the entry off the schedule changes no word HOST can read. -/
theorem hostReadHasNoSideEffect : Obligations.HostReadHasNoSideEffect := by
  unfold Obligations.HostReadHasNoSideEffect
  intro s a rest he
  rw [step_hostRead he, readAccess, readReg_popEvent, popEvent, he]
  rfl

/-! ### the register a word address names -/

theorem ofNat_toNat_of_lt {n : Nat} (h : n < 1024) : (BitVec.ofNat 10 n).toNat = n := by
  rw [BitVec.toNat_ofNat]
  omega

theorem hostReg_ofNat_rxbuf {i : Nat} (h : i < 256) : hostReg (BitVec.ofNat 10 (0x100 + i)) = .rxbuf i := by
  rw [hostReg, ofNat_toNat_of_lt (by omega), if_neg (by omega), if_pos (by omega), Nat.add_sub_cancel_left]

theorem hostReg_rxbuf {a : BitVec 10} (h : 0x100 ≤ a.toNat ∧ a.toNat ≤ 0x1FF) :
    hostReg a = .rxbuf (a.toNat - 0x100) := by
  rw [hostReg, if_neg (by omega), if_pos (by omega)]

theorem hostReg_ofNat_txbuf {i : Nat} (h : i < 8) : hostReg (BitVec.ofNat 10 (0x200 + i)) = .txbuf i := by
  rw [hostReg, ofNat_toNat_of_lt (by omega), if_neg (by omega), if_neg (by omega), if_pos (by omega),
    Nat.add_sub_cancel_left]

theorem hostReg_ofNat_coilw {k : Nat} (h : k < 125) : hostReg (BitVec.ofNat 10 (0x300 + k)) = .coilw k := by
  rw [hostReg, ofNat_toNat_of_lt (by omega), if_neg (by omega), if_neg (by omega), if_neg (by omega),
    if_neg (by omega), if_pos (by omega), Nat.add_sub_cancel_left]

theorem controlReg_reserved {n : Nat} (h : 0x00C ≤ n) : controlReg n = .reserved := by
  unfold controlReg
  split
  case h_13 => rfl
  all_goals omega

/-- The reserved words of 20_memory.md section 2. -/
theorem hostReg_reserved {a : BitVec 10}
    (h : (0x00C ≤ a.toNat ∧ a.toNat ≤ 0x0FF) ∨ (0x208 ≤ a.toNat ∧ a.toNat ≤ 0x2FF) ∨ 0x37D ≤ a.toNat) :
    hostReg a = .reserved := by
  unfold hostReg
  split_ifs
  · exact controlReg_reserved (by omega)
  · omega
  · omega
  · rfl
  · omega
  · rfl

theorem coilWordAt_getLsbD (coil : BitVec 2000) (k : Nat) {j : Nat} (h : j < 16) :
    (coilWordAt coil k).getLsbD j = coil.getLsbD (16 * k + j) := by
  rw [coilWordAt, BitVec.getLsbD_extractLsb', decide_eq_true h, Bool.true_and]

/-- Settles O12: the twelve control words by evaluation, the others by their index in RXBUF, TXBUF or COILW. -/
theorem readMapIsAsTabled : Obligations.ReadMapIsAsTabled := by
  unfold Obligations.ReadMapIsAsTabled
  intro s
  refine ⟨rfl, rfl, rfl, rfl, rfl, rfl, rfl, rfl, rfl, rfl, rfl, rfl, fun i hi => ?_, fun i => ?_, fun k hk j hj => ?_,
    fun a ha => ?_⟩
  · rw [hostReg_ofNat_rxbuf hi, readReg]
  · rw [hostReg_ofNat_txbuf i.isLt, readReg]
    simp [List.getD_eq_getElem?_getD]
  · rw [hostReg_ofNat_coilw hk, readReg, coilWordAt_getLsbD _ _ hj]
  · rw [hostReg_reserved ha, readReg]

/-! ### STATUS -/

theorem bit_getLsbD_zero (b : Bool) : (bit b).getLsbD 0 = b := by cases b <;> rfl

/-- The width of STATUS as its fields add up to it, in the form the lemmas about `++` ask for. -/
theorem Status.toWord_getLsbD (f : Status) (i : Nat) :
    f.toWord.getLsbD i = BitVec.getLsbD (w := 4 + 1 + 1 + 2 + 4 + 1 + 1 + 1 + 1)
      (0#4 ++ bit f.ign ++ bit f.excv ++ f.attempts ++ f.errKind.code ++ bit f.rvalid ++ bit f.err ++ bit f.done ++
        bit f.busy) i := rfl

/-- Settles O13: STATUS is its fields one after the other, so each bit is found by its place in that row. -/
theorem statusFieldsHaveTheirPlaces : Obligations.StatusFieldsHaveTheirPlaces := by
  unfold Obligations.StatusFieldsHaveTheirPlaces
  intro f
  refine ⟨?_, ?_, ?_, ?_, ?_, ?_, ?_, ?_, ?_⟩
  case refine_5 | refine_6 | refine_9 =>
    apply BitVec.eq_of_getLsbD_eq
    intro i hi
    rw [BitVec.getLsbD_extractLsb', f.toWord_getLsbD, decide_eq_true hi]
    interval_cases i <;> simp only [BitVec.getLsbD_append] <;> rfl
  all_goals
    rw [f.toWord_getLsbD]
    simp only [BitVec.getLsbD_append]
    exact bit_getLsbD_zero _

/-- Settles O14: the table of R202. -/
theorem errorKindCodesAreAsTabled : Obligations.ErrorKindCodesAreAsTabled := by
  unfold Obligations.ErrorKindCodesAreAsTabled
  decide

/-! ### writes -/

theorem writeReg_protected_ready {r : HostReg} {s : State} (hr : r.isProtected = true)
    (hready : s.status.busy = false) (v : Word) : writeReg r v s = storeReg r v s := by
  simp [writeReg, hr, hready]

theorem step_hostWrite_store {s : State} {a : BitVec 10} {v : Word} {rest : List Event}
    (he : s.events = .hostWrite a v :: rest) (hready : s.status.busy = false) (ha : (hostReg a).isProtected = true) :
    step s = .next (storeReg (hostReg a) v { s with events := rest }) := by
  have h0 : a.toNat ≠ 0x000 := fun h => by rw [hostReg_isProtected_iff] at ha; omega
  rw [step_hostWrite_reg he h0, writeReg_protected_ready (s := { s with events := rest }) ha hready]

/-- A write of an RXBUF byte writes RXBUF alone. -/
theorem setRx_eq (i : Nat) (b : Byte) (s : State) : setRx i b s = { s with rxbuf := (setRx i b s).rxbuf } := rfl

theorem hostReg_00B : hostReg 0x00B#10 = .rxLen := rfl

theorem storeReg_rxLen_of_le {v : Word} (hv : v.toNat ≤ 256) (s : State) :
    storeReg .rxLen v s = { s with rxLen := v.setWidth 9 } := if_pos hv

theorem storeReg_rxLen_of_gt {v : Word} (hv : 256 < v.toNat) (s : State) : storeReg .rxLen v s = s :=
  if_neg (Nat.not_le.2 hv)

/-- Settles O15: a protected word is stored; RX_LEN looks at the value first, and an RXBUF byte is read back at its own
index alone. -/
theorem protectedWriteStoresUsedBits : Obligations.ProtectedWriteStoresUsedBits := by
  unfold Obligations.ProtectedWriteStoresUsedBits
  intro s a v rest he hready
  have hstep := step_hostWrite_store he hready
  refine ⟨?_, ?_, ?_, ?_, ?_, ?_, ?_, fun ha => ?_⟩
  case refine_6 =>
    rintro rfl hv
    rw [hstep rfl, hostReg_00B, storeReg_rxLen_of_le hv]
  case refine_7 =>
    rintro rfl hv
    rw [hstep rfl, hostReg_00B, storeReg_rxLen_of_gt hv]
  case refine_8 =>
    rw [hostReg_rxbuf ha] at hstep
    refine ⟨_, hstep rfl, rxAt_setRx_same _ _ (by omega), fun i hi => ?_, setRx_eq _ _ _⟩
    exact (rxAt_setRx_other _ _ hi).trans (rxAt_congr rfl rfl i)
  all_goals
    rintro rfl
    exact hstep rfl

/-- Settles O17: BUSY is looked at before the value, as for every RWP word (log 10). -/
theorem largeRxLenWriteWhileBusySetsIgn : Obligations.LargeRxLenWriteWhileBusySetsIgn := by
  unfold Obligations.LargeRxLenWriteWhileBusySetsIgn
  intro s v rest he hbusy _
  rw [step_hostWrite_reg he (by decide), writeReg_protected_busy (s := { s with events := rest }) (by decide) hbusy]
  rfl

/-! ### IGN -/

theorem storeReg_status (r : HostReg) (v : Word) (s : State) : (storeReg r v s).status = s.status := by
  cases r with
  | rxLen =>
    rw [storeReg]
    split <;> rfl
  | _ => rfl

theorem writeReg_ign (r : HostReg) (v : Word) (s : State) :
    (writeReg r v s).status.ign = s.status.ign ∨
      (r.isProtected = true ∧ s.status.busy = true ∧ (writeReg r v s).status.ign = true) := by
  obtain ⟨-, e⟩ | ⟨hr, hbusy, e⟩ | ⟨-, -, e⟩ := writeReg_cases r v s <;> rw [e]
  · exact .inl rfl
  · exact .inr ⟨hr, hbusy, rfl⟩
  · rw [storeReg_status]
    exact .inl rfl

theorem sendStep_ign (ans : TxAnswer) (s : State) : (sendStep ans s).status.ign = s.status.ign := by
  cases ans <;> rfl

theorem timeoutStep_ign (s : State) : (timeoutStep s).status.ign = s.status.ign := by
  obtain ⟨-, e⟩ | ⟨-, -, e⟩ | ⟨-, -, e⟩ := timeoutStep_cases s
  all_goals exact congrArg (fun u => u.status.ign) e

/-- A step keeps IGN, is a HOST write ignored because BUSY = 1, or is a reset or accepts a command. -/
theorem step_ign {s t : State} (hstep : step s = .next t) :
    t.status.ign = s.status.ign ∨
    (t.status.ign = true ∧ s.status.busy = true ∧ ∃ a v rest, s.events = .hostWrite a v :: rest ∧
      (hostReg a = .cmd ∨ (hostReg a).isProtected = true)) ∨
    (t.status.ign = false ∧ beginsAnew s) := by
  cases step_cases hstep with
  | idle _ => exact .inl rfl
  | read a rest _ => exact .inl rfl
  | write a v rest he _ =>
    obtain h | ⟨hr, hbusy, h⟩ := writeReg_ign (hostReg a) v (popEvent s)
    · exact .inl h
    · exact .inr (.inl ⟨h, hbusy, a, v, rest, he, .inr hr⟩)
  | command a c rest he ha =>
    by_cases hbusy : s.status.busy = true
    · rw [issue_busy (s := popEvent s) hbusy]
      exact .inr (.inl ⟨rfl, hbusy, a, c, rest, he, .inl ha⟩)
    · have hready : s.status.busy = false := Bool.eq_false_iff.2 hbusy
      exact .inr (.inr ⟨issue_ready_ign c (s := popEvent s) hready,
        .inr ⟨hready, c, rest, (hostReg_eq_cmd a).1 ha ▸ he⟩⟩)
  | send ans rest _ _ => exact .inl (sendStep_ign ans (popEvent s))
  | stray _ _ _ _ => exact .inl rfl
  | rx bs rest _ =>
    obtain ⟨-, hign, -⟩ := receive_keeps_counts bs (popEvent s)
    exact .inl hign
  | timeout rest _ => exact .inl (timeoutStep_ign (popEvent s))
  | reset rest he => exact .inr (.inr ⟨rfl, .inl ⟨rest, he⟩⟩)

/-- Settles O18: where IGN rises it was not kept nor cleared, so the step is an ignored write; where it falls it was not
kept nor set. -/
theorem ignRisesByIgnoredWritesOnly : Obligations.IgnRisesByIgnoredWritesOnly := by
  unfold Obligations.IgnRisesByIgnoredWritesOnly
  intro s t hstep
  refine ⟨fun hrise hlow => ?_, fun hfall hhigh => ?_⟩
  · obtain hkeep | ⟨-, hbusy, a, v, rest, he, ha⟩ | ⟨hclear, -⟩ := step_ign hstep
    · simp [hrise, hlow] at hkeep
    · refine ⟨hbusy, a, v, rest, he, ?_⟩
      rw [hostReg_eq_cmd, hostReg_isProtected_iff] at ha
      obtain rfl | ha := ha
      · exact .inl rfl
      · exact .inr ha
    · simp [hrise] at hclear
  · obtain hkeep | ⟨hset, -⟩ | ⟨-, hanew⟩ := step_ign hstep
    · simp [hfall, hhigh] at hkeep
    · simp [hfall] at hset
    · exact hanew

end Sys2Proof.Machine

/-! ## Proofs: CRC arithmetic

The table form of `crc_step`, and the residue of a sequence with its CRC appended (40_crc.md section 2). -/

namespace Sys2Proof.Machine

theorem hi8_setWidth (c : Word) : (hi8 c).setWidth 16 = c >>> 8 := by
  ext i hi
  by_cases h8 : i < 8
  · simp [hi8, h8]
  · simp [hi8, h8, BitVec.getLsbD_of_ge c (8 + i) (by omega)]

/-- XOR with a byte leaves the high byte. -/
theorem hi8_xor_byte (c : Word) (b : Byte) : hi8 (c ^^^ b.setWidth 16) = hi8 c := by
  ext i hi
  simp [hi8]

/-- The index of the table entry as the statement writes it. -/
theorem and_setWidth_eq_lo8 (x : Word) : (x &&& 0x00FF#16).setWidth 8 = lo8 x := by
  apply BitVec.eq_of_toNat_eq
  have hmask : x.toNat % 256 &&& 255 = x.toNat % 256 % 256 := Nat.and_two_pow_sub_one_eq_mod _ 8
  simp [lo8, hmask]

/-- One step by the two bytes of `x`: the high one is shifted down, the low one is looked up. -/
theorem crcStep_zero_byte (x : Word) : crcStep x 0#8 = (hi8 x).setWidth 16 ^^^ crcStep 0#16 (lo8 x) := by
  have hsplit := crcStep_xor (cat16 (hi8 x) (lo8 x)) 0#16 (lo8 x) (lo8 x)
  rw [cat16_hi8_lo8, BitVec.xor_self, BitVec.xor_zero] at hsplit
  refine hsplit.trans ?_
  conv_lhs => rw [← cat16_hi8_lo8 x, lo8_cat16, crcStep_cat16]

theorem crcStep_eq_zero_byte (c : Word) (b : Byte) : crcStep c b = crcStep (c ^^^ b.setWidth 16) 0#8 := by
  simp [crcStep]

/-- Settles O21: `crc_step` sees the XOR of its two arguments, whose high byte is that of the CRC and whose low byte
indexes the table. -/
theorem crcTableFormAgrees : Obligations.CrcTableFormAgrees := by
  unfold Obligations.CrcTableFormAgrees
  intro c b
  rw [crcStep_eq_zero_byte, crcStep_zero_byte, hi8_xor_byte, hi8_setWidth, and_setWidth_eq_lo8]

/-- Settles O23: the two bytes are the CRC field of a frame whose CRC it is. -/
theorem crcResidueIsZero : Obligations.CrcResidueIsZero := by
  unfold Obligations.CrcResidueIsZero
  exact fun m => (crc16_frameOf_eq_zero_iff m (crc16 m)).2 rfl

end Sys2Proof.Machine

/-! ## Proofs: what a command's body does not read

A body reads neither the schedule nor the counts its prologue has cleared, nor BUSY and PHASE, which its end sets; and
of the commands only the CRC generator has to do with CRC (10_state.md R37, 60_exceptions.md R200, R201). So a body
commutes with a rewriting of these. -/

namespace Sys2Proof.Machine

/-- New values for some of CRC, the schedule, ATTEMPTS and IGN. -/
structure Rewriting where
  crc : Option Word := none
  events : Option (List Event) := none
  attempts : Option (BitVec 2) := none
  ign : Option Bool := none

namespace Rewriting

def apply (r : Rewriting) (s : State) : State :=
  { s with
    crc := r.crc.getD s.crc
    events := r.events.getD s.events
    status := { s.status with attempts := r.attempts.getD s.status.attempts, ign := r.ign.getD s.status.ign } }

/-- The rewriting of a state whose PHASE and BUSY are set as well. -/
def reopen (r : Rewriting) (p : Phase) (busy : Bool) (s : State) : State :=
  { r.apply s with phase := p, status := { (r.apply s).status with busy := busy } }

section
variable (r : Rewriting) (p : Phase) (busy : Bool) (s : State)

@[simp] theorem reopen_count : (r.reopen p busy s).count = s.count := rfl
@[simp] theorem reopen_addr : (r.reopen p busy s).addr = s.addr := rfl
@[simp] theorem reopen_txLen : (r.reopen p busy s).txLen = s.txLen := rfl
@[simp] theorem reopen_op : (r.reopen p busy s).op = s.op := rfl
@[simp] theorem rxFrame_reopen : rxFrame (r.reopen p busy s) = rxFrame s := rfl
@[simp] theorem apply_phase : (r.apply s).phase = s.phase := rfl

theorem apply_eq_reopen : r.apply s = r.reopen s.phase s.status.busy s := rfl

end

end Rewriting

/-- `f` sets PHASE and BUSY and reads nothing that a rewriting changes. -/
def Blind (f : State → State) : Prop :=
  ∀ (r : Rewriting) (p : Phase) (busy : Bool) (s : State), f (r.reopen p busy s) = r.apply (f s)

theorem Blind.apply {f : State → State} (h : Blind f) (r : Rewriting) (s : State) : f (r.apply s) = r.apply (f s) := by
  rw [r.apply_eq_reopen, h]

/-! ### the bodies of the commands -/

theorem withFrame_blind {efc : Byte} {k : List Byte → State → State} (hk : ∀ rx, Blind (k rx)) :
    Blind (withFrame efc k) := by
  intro r p busy s
  rw [withFrame, withFrame, Rewriting.rxFrame_reopen]
  cases frameCheck efc (rxFrame s) with
  | bad e => rfl
  | exception y => rfl
  | good => exact hk (rxFrame s) r p busy s

theorem decRBRest_blind (rx : List Byte) : Blind (decRBRest rx) := by
  intro r p busy s
  rw [decRBRest, decRBRest, Rewriting.reopen_count]
  split_ifs <;> rfl

theorem decRRRest_blind (rx : List Byte) : Blind (decRRRest rx) := by
  intro r p busy s
  rw [decRRRest, decRRRest]
  split_ifs <;> rfl

theorem writeAckRest_blind (ev : Word) (rx : List Byte) : Blind (writeAckRest ev rx) := by
  intro r p busy s
  rw [writeAckRest, writeAckRest, Rewriting.reopen_addr]
  split_ifs <;> rfl

theorem decRBBody_blind : Blind decRBBody := by
  intro r p busy s
  rw [decRBBody, decRBBody, Rewriting.reopen_count]
  split_ifs
  · exact withFrame_blind decRBRest_blind r p busy s
  · rfl

theorem decRRBody_blind : Blind decRRBody := withFrame_blind decRRRest_blind

theorem decWBBody_blind : Blind decWBBody := fun r p busy s =>
  withFrame_blind (writeAckRest_blind (coilWord s.value)) r p busy s

theorem decWRBody_blind : Blind decWRBody := fun r p busy s =>
  withFrame_blind (writeAckRest_blind s.value) r p busy s

theorem chkCrcBody_blind : Blind chkCrcBody := by
  intro r p busy s
  rw [chkCrcBody, chkCrcBody, Rewriting.rxFrame_reopen]
  split_ifs <;> rfl

theorem chkExcBody_blind : Blind chkExcBody := by
  intro r p busy s
  rw [chkExcBody, chkExcBody, Rewriting.rxFrame_reopen]
  split_ifs <;> rfl

theorem encRBBody_blind {k : State → State} (hk : Blind k) : Blind (encRBBody k) := by
  intro r p busy s
  rw [encRBBody, encRBBody, Rewriting.reopen_count]
  split_ifs
  · exact hk r p busy (putRequest 0x01#8 s.count s)
  · rfl

theorem xferBody_blind : Blind xferBody := by
  intro r p busy s
  rw [xferBody, xferBody, Rewriting.reopen_txLen]
  split_ifs <;> rfl

theorem bodyOf_blind {i : Instr} {c : Word} (hi : encode i = .command c) (hinit : i ≠ .crcInit)
    (hfeed : i ≠ .crcFeed) : Blind (bodyOf i) := by
  cases i with
  | crcInit => exact absurd rfl hinit
  | crcFeed => exact absurd rfl hfeed
  | chkCrc => exact chkCrcBody_blind
  | chkExc => exact chkExcBody_blind
  | encRB => exact encRBBody_blind fun _ _ _ _ => rfl
  | encRR => exact fun _ _ _ _ => rfl
  | encWB => exact fun _ _ _ _ => rfl
  | encWR => exact fun _ _ _ _ => rfl
  | decRB => exact decRBBody_blind
  | decRR => exact decRRBody_blind
  | decWB => exact decWBBody_blind
  | decWR => exact decWRBody_blind
  | xfer => exact xferBody_blind
  | txnRB => exact encRBBody_blind fun _ _ _ _ => rfl
  | txnRR => exact fun _ _ _ _ => rfl
  | txnWB => exact fun _ _ _ _ => rfl
  | txnWR => exact fun _ _ _ _ => rfl
  | _ => cases hi

theorem complete_blind : Blind complete := by
  intro r p busy s
  rw [complete, complete, Rewriting.reopen_op]
  cases s.op with
  | xfer => rfl
  | txnRB => exact decRBBody_blind r p busy s
  | txnRR => exact decRRBody_blind r p busy s
  | txnWB => exact decWBBody_blind r p busy s
  | txnWR => exact decWRBody_blind r p busy s

/-! ### reception, which also keeps PHASE and BUSY -/

theorem rxByte_apply (r : Rewriting) (s : State) (b : Byte) : rxByte (r.apply s) b = r.apply (rxByte s b) := by
  have happend : appendRx b (r.apply s) = r.apply (appendRx b s) := rfl
  have hfull : rxComplete (r.apply (appendRx b s)) = rxComplete (appendRx b s) := rfl
  rw [rxByte, rxByte, r.apply_phase, happend, hfull]
  split_ifs
  · exact complete_blind.apply r _
  · rfl
  · rfl

theorem receive_apply (r : Rewriting) (bs : List Byte) (s : State) :
    receive bs (r.apply s) = r.apply (receive bs s) := by
  induction bs generalizing s with
  | nil => rfl
  | cons b bs ih => rw [receive_cons, receive_cons, rxByte_apply, ih]

/-! ### CRC -/

theorem issue_setCrc {body : State → State} (h : Blind body) (x : Word) (s : State) :
    issue body (setCrc x s) = setCrc x (issue body s) := by
  by_cases hbusy : s.status.busy = true
  · rw [issue_busy hbusy, issue_busy (s := setCrc x s) hbusy]
    rfl
  · have hready : s.status.busy = false := Bool.eq_false_iff.2 hbusy
    rw [issue_ready hready, issue_ready (s := setCrc x s) hready]
    exact h.apply { crc := some x } (acceptPrologue s)

theorem receive_setCrc (bs : List Byte) (x : Word) (s : State) : receive bs (setCrc x s) = setCrc x (receive bs s) :=
  receive_apply { crc := some x } bs s

theorem sendStep_setCrc (ans : TxAnswer) (x : Word) (s : State) :
    sendStep ans (setCrc x s) = setCrc x (sendStep ans s) := by
  cases ans <;> rfl

theorem transmit_setCrc (f : List Byte) (x : Word) (s : State) : transmit f (setCrc x s) = setCrc x (transmit f s) := by
  rw [transmit, transmit, setCrc_phase, setCrc_txbuf, setCrc_events]
  split_ifs
  · split
    · exact sendStep_setCrc _ x (popEvent s)
    · rfl
  · rfl

/-- CRC_INIT writes CRC without reading it. -/
theorem exec_crcInit_setCrc (x : Word) (s : State) :
    ∃ t y, exec .crcInit s = .next t ∧ exec .crcInit (setCrc x s) = .next (setCrc y t) := by
  by_cases hbusy : s.status.busy = true
  · refine ⟨setIgn s, x, ?_, ?_⟩
    · rw [exec_crcInit, issue_busy hbusy]
    · rw [exec_crcInit, issue_busy (s := setCrc x s) hbusy]
      rfl
  · have hready : s.status.busy = false := Bool.eq_false_iff.2 hbusy
    refine ⟨crcInitBody (acceptPrologue s), crcInitial, ?_, ?_⟩
    · rw [exec_crcInit, issue_ready hready]
    · rw [exec_crcInit, issue_ready (s := setCrc x s) hready]
      rfl

/-- Settles O26: CRC_INIT writes CRC whatever it was; any other command, transmission and reception commute with writing
it. -/
theorem nothingElseReadsCrc : Obligations.NothingElseReadsCrc := by
  unfold Obligations.NothingElseReadsCrc
  intro i s t x hfeed ht
  cases hi : encode i with
  | command c =>
    by_cases hinit : i = .crcInit
    · subst hinit
      obtain ⟨u, y, hu, hy⟩ := exec_crcInit_setCrc x s
      rw [hu] at ht
      cases ht
      exact ⟨y, hy⟩
    · rw [exec_command hi] at ht
      cases ht
      exact ⟨x, (exec_command hi _).trans (congrArg _ (issue_setCrc (bodyOf_blind hi hinit hfeed) x s))⟩
  | request bs =>
    rw [exec_request hi] at ht
    cases ht
    exact ⟨x, (exec_request hi _).trans (congrArg _ (transmit_setCrc bs x s))⟩
  | response bs =>
    rw [exec_response hi] at ht
    cases ht
    exact ⟨x, (exec_response hi _).trans (congrArg _ (receive_setCrc bs x s))⟩

end Sys2Proof.Machine

/-! ## Proofs: who writes what

The registers a running exchange leaves alone, and the three kinds of step that write one of them: a stored HOST write,
an accepted command, reset (10_state.md R37, R40, R41; 20_memory.md section 5; 60_exceptions.md R207). -/

namespace Sys2Proof.Machine

/-- From `s` to `t` the argument registers, CRC, the request and the running command stay. -/
structure KeepsSetup (s t : State) : Prop where
  slave : t.slave = s.slave
  addr : t.addr = s.addr
  count : t.count = s.count
  value : t.value = s.value
  data : t.data = s.data
  crc : t.crc = s.crc
  txbuf : t.txbuf = s.txbuf
  txLen : t.txLen = s.txLen
  op : t.op = s.op
  explen : t.explen = s.explen

/-- From `s` to `t` RX_LEN and RXBUF stay. -/
structure KeepsRx (s t : State) : Prop where
  rxLen : t.rxLen = s.rxLen
  rxbuf : t.rxbuf = s.rxbuf
  era : t.era = s.era

section
variable {s t u : State}

theorem KeepsSetup.refl (s : State) : KeepsSetup s s := ⟨rfl, rfl, rfl, rfl, rfl, rfl, rfl, rfl, rfl, rfl⟩

theorem KeepsSetup.trans (h : KeepsSetup s t) (h' : KeepsSetup t u) : KeepsSetup s u where
  slave := h'.slave.trans h.slave
  addr := h'.addr.trans h.addr
  count := h'.count.trans h.count
  value := h'.value.trans h.value
  data := h'.data.trans h.data
  crc := h'.crc.trans h.crc
  txbuf := h'.txbuf.trans h.txbuf
  txLen := h'.txLen.trans h.txLen
  op := h'.op.trans h.op
  explen := h'.explen.trans h.explen

/-- Every other field may be written. -/
theorem KeepsSetup.of_rest (s : State) {f : Status} {result : Word} {exc : Byte} {n : BitVec 9} {m : List Host.Cell}
    {coil : BitVec 2000} {p : Phase} {es : List Event} {rs : List Word} {ss : List (Vector Byte 8)} :
    KeepsSetup s { s with
      status := f, result := result, exc := exc, rxLen := n, rxbuf := m, coil := coil, phase := p, events := es,
      reads := rs, sent := ss } :=
  ⟨rfl, rfl, rfl, rfl, rfl, rfl, rfl, rfl, rfl, rfl⟩

theorem KeepsRx.refl (s : State) : KeepsRx s s := ⟨rfl, rfl, rfl⟩

theorem KeepsRx.trans (h : KeepsRx s t) (h' : KeepsRx t u) : KeepsRx s u :=
  ⟨h'.rxLen.trans h.rxLen, h'.rxbuf.trans h.rxbuf, h'.era.trans h.era⟩

theorem KeepsRx.rxAt (h : KeepsRx s t) (i : Nat) : rxAt t i = rxAt s i := rxAt_congr h.rxbuf h.era i

/-! ### the operations of a running exchange -/

theorem EndsInError.keepsSetup (h : EndsInError s t) : KeepsSetup s t := by
  cases h with
  | raised k _ _ h => exact h ▸ .of_rest s
  | exception x h => exact h ▸ .of_rest s

theorem complete_keepsSetup (s : State) : KeepsSetup s (complete s) := by
  obtain h | e | ⟨-, v, e⟩ | ⟨-, w, e⟩ := complete_cases s
  · exact h.keepsSetup
  all_goals exact e ▸ .of_rest s

theorem rxByte_keepsSetup (s : State) (b : Byte) : KeepsSetup s (rxByte s b) := by
  have happend : KeepsSetup s (appendRx b s) := .of_rest s
  obtain ⟨-, e⟩ | ⟨-, -, e⟩ | ⟨-, -, e⟩ := rxByte_cases s b <;> rw [e]
  · exact .refl s
  · exact happend
  · exact happend.trans (complete_keepsSetup _)

theorem receive_keepsSetup (bs : List Byte) (s : State) : KeepsSetup s (receive bs s) :=
  receive_keeps (P := KeepsSetup s) (fun t b h => h.trans (rxByte_keepsSetup t b)) (.refl s) bs

theorem sendStep_keepsSetup (ans : TxAnswer) (s : State) : KeepsSetup s (sendStep ans s) := by
  cases ans <;> exact .of_rest s

theorem timeoutStep_keepsSetup (s : State) : KeepsSetup s (timeoutStep s) := by
  obtain ⟨-, e⟩ | ⟨-, -, e⟩ | ⟨-, -, e⟩ := timeoutStep_cases s <;> rw [e]
  all_goals exact .of_rest s

theorem timeoutStep_keepsRx (s : State) : KeepsRx s (timeoutStep s) := by
  obtain ⟨-, e⟩ | ⟨-, -, e⟩ | ⟨-, -, e⟩ := timeoutStep_cases s <;> rw [e]
  all_goals exact ⟨rfl, rfl, rfl⟩

/-! ### the step -/

/-- What becomes of these registers in a step: it keeps them all, it is the engine's and writes RXBUF or RX_LEN alone,
or it is one of the three kinds that write another. -/
inductive SetupBecomes (s t : State) : Prop
  | kept (h : KeepsSetup s t) (hrx : KeepsRx s t)
  | driven (h : KeepsSetup s t)
      (hcause : (s.phase = .send ∧ ∃ ans rest, s.events = .tx ans :: rest) ∨
        (s.phase = .recv ∧ ∃ bs rest, s.events = .rx bs :: rest))
  | stored (a : BitVec 10) (v : Word) (rest : List Event) (he : s.events = .hostWrite a v :: rest)
      (hready : s.status.busy = false) (ha : (hostReg a).isProtected = true)
      (h : t = storeReg (hostReg a) v (popEvent s))
  | accepted (c : Word) (rest : List Event) (he : s.events = .hostWrite 0x000#10 c :: rest)
      (hready : s.status.busy = false) (h : BodyTo c (acceptPrologue (popEvent s)) t)
  | reset (rest : List Event) (he : s.events = .reset :: rest) (h : t = resetBlock (popEvent s))

theorem step_setup (hstep : step s = .next t) : SetupBecomes s t := by
  have hpop : KeepsSetup s (popEvent s) := .of_rest s
  have hign : KeepsSetup s (setIgn (popEvent s)) := .of_rest s
  cases step_cases hstep with
  | idle _ => exact .kept (.refl s) (.refl s)
  | read a rest _ => exact .kept (.of_rest s) ⟨rfl, rfl, rfl⟩
  | stray _ _ _ _ => exact .kept hpop ⟨rfl, rfl, rfl⟩
  | write a v rest he _ =>
    obtain ⟨-, e⟩ | ⟨-, -, e⟩ | ⟨ha, hready, e⟩ := writeReg_cases (hostReg a) v (popEvent s) <;> rw [e]
    · exact .kept hpop ⟨rfl, rfl, rfl⟩
    · exact .kept hign ⟨rfl, rfl, rfl⟩
    · exact .stored a v rest he hready ha rfl
  | command a c rest he ha =>
    rw [(hostReg_eq_cmd a).1 ha] at he
    by_cases hbusy : s.status.busy = true
    · rw [issue_busy (s := popEvent s) hbusy]
      exact .kept hign ⟨rfl, rfl, rfl⟩
    · have hready : s.status.busy = false := Bool.eq_false_iff.2 hbusy
      rw [issue_ready (s := popEvent s) hready]
      exact .accepted c rest he hready (commandBody_bodyTo c _)
  | send ans rest he hsend =>
    exact .driven (hpop.trans (sendStep_keepsSetup ans _)) (.inl ⟨hsend, ans, rest, he⟩)
  | rx bs rest he =>
    by_cases hrecv : s.phase = .recv
    · exact .driven (hpop.trans (receive_keepsSetup bs _)) (.inr ⟨hrecv, bs, rest, he⟩)
    · rw [receive_dropped (s := popEvent s) hrecv]
      exact .kept hpop ⟨rfl, rfl, rfl⟩
  | timeout rest _ =>
    have hrx : KeepsRx s (popEvent s) := ⟨rfl, rfl, rfl⟩
    exact .kept (hpop.trans (timeoutStep_keepsSetup _)) (hrx.trans (timeoutStep_keepsRx _))
  | reset rest he => exact .reset rest he rfl

/-! ### what the two HOST writes leave -/

theorem storeReg_keeps_engine (r : HostReg) (v : Word) (s : State) :
    (storeReg r v s).crc = s.crc ∧ (storeReg r v s).txbuf = s.txbuf ∧ (storeReg r v s).txLen = s.txLen ∧
      (storeReg r v s).sent = s.sent := by
  cases r with
  | rxLen =>
    rw [storeReg]
    split <;> exact ⟨rfl, rfl, rfl, rfl⟩
  | _ => exact ⟨rfl, rfl, rfl, rfl⟩

theorem storeReg_keepsRx {r : HostReg} (hlen : r ≠ .rxLen) (hbuf : ∀ i, r ≠ .rxbuf i) (v : Word) (s : State) :
    KeepsRx s (storeReg r v s) := by
  cases r with
  | rxLen => exact absurd rfl hlen
  | rxbuf i => exact absurd rfl (hbuf i)
  | _ => exact ⟨rfl, rfl, rfl⟩

theorem EndsInError.keepsRx (h : EndsInError s t) : KeepsRx s t := by
  cases h with
  | raised k _ _ h => exact h ▸ ⟨rfl, rfl, rfl⟩
  | exception x h => exact h ▸ ⟨rfl, rfl, rfl⟩

theorem BodyTo.keepsRx {c : Word} (h : BodyTo c s t) : KeepsRx s t := by
  cases h with
  | failed h => exact h.keepsRx
  | _ => exact ⟨rfl, rfl, rfl⟩

/-- A command writes CRC as CRC_INIT or as CRC_FEED. -/
theorem BodyTo.crc {c : Word} (h : BodyTo c s t) :
    t.crc = s.crc ∨ (c = 0x0001#16 ∧ t.crc = crcInitial) ∨ (c = 0x0002#16 ∧ t.crc = crcStep s.crc s.data) := by
  cases h with
  | failed h => exact .inl h.keepsSetup.crc
  | crcInitialised hc => exact .inr (.inl ⟨hc, rfl⟩)
  | crcFed hc => exact .inr (.inr ⟨hc, rfl⟩)
  | _ => exact .inl rfl

/-- A command writes TXBUF or TX_LEN where it encodes. -/
theorem BodyTo.request {c : Word} (h : BodyTo c s t) : (t.txbuf = s.txbuf ∧ t.txLen = s.txLen) ∨ encodes c := by
  cases h with
  | failed h => exact .inl ⟨h.keepsSetup.txbuf, h.keepsSetup.txLen⟩
  | unencodable hc => exact .inr hc
  | encoded hc fc w _ => exact .inr hc
  | started hc o fc w _ _ => exact .inr hc
  | _ => exact .inl ⟨rfl, rfl⟩

/-- A command that ends in an error leaves its arguments, CRC and TXBUF (60_exceptions.md R207). -/
theorem BodyTo.keeps_of_err {c : Word} (h : BodyTo c s t) (hclear : s.status.err = false)
    (herr : t.status.err = true) :
    t.crc = s.crc ∧ t.slave = s.slave ∧ t.addr = s.addr ∧ t.count = s.count ∧ t.value = s.value ∧ t.data = s.data ∧
      t.txbuf = s.txbuf := by
  cases h with
  | failed h =>
    obtain ⟨hslave, haddr, hcount, hvalue, hdata, hcrc, htxbuf, -, -, -⟩ := h.keepsSetup
    exact ⟨hcrc, hslave, haddr, hcount, hvalue, hdata, htxbuf⟩
  | unencodable _ => exact ⟨rfl, rfl, rfl, rfl, rfl, rfl, rfl⟩
  | started _ o fc w _ _ =>
    have hrun : s.status.err = true := herr
    simp [hclear] at hrun
  | transfers _ =>
    have hrun : s.status.err = true := herr
    simp [hclear] at hrun
  | _ => simp at herr

end

theorem step_reset {s : State} {rest : List Event} (he : s.events = .reset :: rest) :
    step s = .next (resetBlock (popEvent s)) := by
  rw [step, he]
  rfl

/-! ### the statements -/

/-- Settles O25: of the steps that write a register only reset and the two commands of the CRC generator write CRC. -/
theorem crcIsWrittenByItsCommandsOnly : Obligations.CrcIsWrittenByItsCommandsOnly := by
  unfold Obligations.CrcIsWrittenByItsCommandsOnly
  intro s t hstep hne
  cases step_setup hstep with
  | kept h _ => exact absurd h.crc hne
  | driven h _ => exact absurd h.crc hne
  | stored a v rest _ _ _ h =>
    obtain ⟨hcrc, -, -, -⟩ := storeReg_keeps_engine (hostReg a) v (popEvent s)
    exact absurd (h ▸ hcrc) hne
  | accepted c rest he hready h =>
    obtain hcrc | ⟨rfl, hcrc⟩ | ⟨rfl, hcrc⟩ := h.crc
    · exact absurd hcrc hne
    · exact .inr (.inl ⟨hready, rest, he, hcrc⟩)
    · exact .inr (.inr ⟨hready, rest, he, hcrc⟩)
  | reset rest he h => exact .inl ⟨rest, he, by rw [h]; rfl⟩

/-- Settles O31: of the steps that write a register only reset and the encoding commands write the request. -/
theorem txbufIsWrittenByEncodersOnly : Obligations.TxbufIsWrittenByEncodersOnly := by
  unfold Obligations.TxbufIsWrittenByEncodersOnly
  intro s t hstep hne
  have hwritten : ¬ (t.txbuf = s.txbuf ∧ t.txLen = s.txLen) := fun ⟨hbuf, hlen⟩ =>
    hne.elim (absurd hbuf) (absurd hlen)
  cases step_setup hstep with
  | kept h _ => exact absurd ⟨h.txbuf, h.txLen⟩ hwritten
  | driven h _ => exact absurd ⟨h.txbuf, h.txLen⟩ hwritten
  | stored a v rest _ _ _ h =>
    obtain ⟨-, hbuf, hlen, -⟩ := storeReg_keeps_engine (hostReg a) v (popEvent s)
    exact absurd ⟨h ▸ hbuf, h ▸ hlen⟩ hwritten
  | accepted c rest he hready h =>
    obtain hsame | hc := h.request
    · exact absurd hsame hwritten
    · exact .inr ⟨hready, c, rest, he, hc⟩
  | reset rest he _ => exact .inl ⟨rest, he⟩

/-- Settles O55: while BUSY = 1 neither HOST write is performed, so a step other than reset keeps the setup. -/
theorem argumentsAreStableWhileBusy : Obligations.ArgumentsAreStableWhileBusy := by
  unfold Obligations.ArgumentsAreStableWhileBusy
  intro s t hbusy hstep hreset
  have hkept : KeepsSetup s t := by
    cases step_setup hstep with
    | kept h _ => exact h
    | driven h _ => exact h
    | stored a v rest _ hready _ _ => simp [hbusy] at hready
    | accepted c rest _ hready _ => simp [hbusy] at hready
    | reset rest he _ => exact absurd he (hreset rest)
  obtain ⟨hslave, haddr, hcount, hvalue, hdata, -, htxbuf, htxLen, hop, hexplen⟩ := hkept
  exact ⟨hslave, haddr, hcount, hvalue, hdata, htxbuf, htxLen, hop, hexplen⟩

theorem controlReg_eq_rxLen {n : Nat} (h : controlReg n = .rxLen) : n = 0x00B := by
  unfold controlReg at h
  split at h
  case h_12 => rfl
  all_goals cases h

theorem eq_of_hostReg_rxLen {a : BitVec 10} (h : hostReg a = .rxLen) : a = 0x00B#10 := by
  unfold hostReg at h
  split_ifs at h
  exact BitVec.eq_of_toNat_eq (controlReg_eq_rxLen h)

theorem range_of_hostReg_rxbuf {a : BitVec 10} {i : Nat} (h : hostReg a = .rxbuf i) :
    0x100 ≤ a.toNat ∧ a.toNat ≤ 0x1FF := by
  unfold hostReg at h
  split_ifs at h
  · obtain ⟨hne, -, -⟩ := controlReg_ne_buffer a.toNat i
    exact absurd h hne
  · omega

/-- Settles O56: a HOST write of another word leaves both, and so does every command. -/
theorem rxbufIsWrittenByHostAndArbiterOnly : Obligations.RxbufIsWrittenByHostAndArbiterOnly := by
  unfold Obligations.RxbufIsWrittenByHostAndArbiterOnly
  intro s t hstep hne
  have hwritten : ¬ KeepsRx s t := fun h => hne.elim (absurd h.rxLen) fun ⟨i, hi⟩ => hi (h.rxAt i)
  cases step_setup hstep with
  | kept _ hrx => exact absurd hrx hwritten
  | driven _ hcause => exact .inr (.inr hcause)
  | stored a v rest he hready _ h =>
    refine .inr (.inl ⟨hready, a, v, rest, he, ?_⟩)
    by_contra hother
    obtain ⟨hlen, hbuf⟩ := not_or.1 hother
    obtain ⟨hrxLen, hrxbuf, hera⟩ := storeReg_keepsRx (mt eq_of_hostReg_rxLen hlen)
      (fun _ => mt range_of_hostReg_rxbuf hbuf) v (popEvent s)
    exact hwritten (h ▸ ⟨hrxLen, hrxbuf, hera⟩)
  | accepted c rest _ _ h =>
    obtain ⟨hrxLen, hrxbuf, hera⟩ := h.keepsRx
    exact absurd ⟨hrxLen, hrxbuf, hera⟩ hwritten
  | reset rest he _ => exact .inl ⟨rest, he⟩

/-- Settles O57: RESULT and COIL are written on success only, and a command that ends in an error writes no other
register of the list; a stored HOST write ends no command. -/
theorem errorsArePrecise : Obligations.ErrorsArePrecise := by
  unfold Obligations.ErrorsArePrecise
  intro s t hinv hstep hends hdone herr
  have hnoreset : ∀ rest, s.events ≠ .reset :: rest := by
    intro rest he
    rw [step_reset he] at hstep
    cases hstep
    exact Bool.false_ne_true hdone
  have hresults : t.result = s.result ∧ t.coil = s.coil := by
    cases step_results hinv hstep hnoreset with
    | unwritten h => exact ⟨h.result, h.coil⟩
    | readBits _ _ hend => exact absurd herr (not_err_of_ended hend)
    | readRegister _ _ hend => exact absurd herr (not_err_of_ended hend)
  obtain ⟨hresult, hcoil⟩ := hresults
  refine ⟨hresult, hcoil, ?_⟩
  cases step_setup hstep with
  | kept h _ => exact ⟨h.crc, h.slave, h.addr, h.count, h.value, h.data, h.txbuf⟩
  | driven h _ => exact ⟨h.crc, h.slave, h.addr, h.count, h.value, h.data, h.txbuf⟩
  | accepted c rest _ _ h => exact h.keeps_of_err rfl herr
  | reset rest he _ => exact absurd he (hnoreset rest)
  | stored a v rest he _ ha h =>
    exfalso
    obtain hopen | ⟨c, rest', he'⟩ := hends
    · rw [h, storeReg_status] at hdone
      exact Bool.false_ne_true (hopen.symm.trans hdone)
    · rw [he] at he'
      cases he'
      exact Bool.false_ne_true ha

end Sys2Proof.Machine

/-! ## Proofs: an exchange from its acceptance on

XFER and TXN_x at acceptance, the SEND step, the events nothing waits for, and reset (43_arbiter.md R172 to R180,
70_reset_and_hazards.md R230 to R232). -/

namespace Sys2Proof.Machine

/-! ### the expected length -/

section
variable {t : Vector Byte 8}

theorem explenOf_readBits (h : t[1] = 0x01#8) :
    explenOf t = 5 + (t[4].toNat * 256 + t[5].toNat + 7) / 8 := by
  rw [explenOf, if_pos h, coilBytes_eq, cat16_toNat]

theorem explenOf_readRegister (h : t[1] = 0x03#8) : explenOf t = 7 := by simp [explenOf, h]

theorem explenOf_writeBit (h : t[1] = 0x05#8) : explenOf t = 8 := by simp [explenOf, h]

theorem explenOf_writeRegister (h : t[1] = 0x06#8) : explenOf t = 8 := by simp [explenOf, h]

end

theorem explenOf_buildReq_readBits (sl : Byte) (a w : Word) :
    explenOf (buildReq sl 0x01#8 a w) = 5 + (w.toNat + 7) / 8 := by
  have hword : (hi8 w).toNat * 256 + (lo8 w).toNat = w.toNat := by rw [← cat16_toNat, cat16_hi8_lo8]
  rw [explenOf_readBits rfl, ← hword]
  rfl

/-! ### acceptance -/

theorem startExchange_acceptPrologue (o : Op) (s : State) :
    startExchange o (acceptPrologue s) =
      { s with exc := 0, op := o, explen := explenOf s.txbuf, phase := .send, status := startedStatus } := rfl

theorem startExchange_putRequest_acceptPrologue (o : Op) (fc : Byte) (w : Word) (s : State) :
    startExchange o (putRequest fc w (acceptPrologue s)) =
      { s with
        exc := 0, txbuf := buildReq s.slave fc s.addr w, txLen := 8, op := o,
        explen := explenOf (buildReq s.slave fc s.addr w), phase := .send, status := startedStatus } := rfl

/-- Settles O39: TX_LEN decides; the length expected is that of the function code in TXBUF. -/
theorem xferStartsTheExchange : Obligations.XferStartsTheExchange := by
  unfold Obligations.XferStartsTheExchange
  intro s hready
  rw [exec_ready (i := .xfer) rfl hready, bodyOf, xferBody, acceptPrologue_txLen]
  refine ⟨fun hlen => ⟨explenOf s.txbuf, ?_, explenOf_readBits, explenOf_readRegister, explenOf_writeBit,
    explenOf_writeRegister⟩, fun hlen => ?_⟩
  · rw [if_pos hlen, startExchange_acceptPrologue]
  · rw [if_neg hlen, raiseErr_acceptPrologue (by decide)]

/-- Settles O40: what the encoder of the same request writes, then the start of its exchange. -/
theorem txnEncodesAndStarts : Obligations.TxnEncodesAndStarts := by
  unfold Obligations.TxnEncodesAndStarts
  intro s hready
  rw [exec_ready (i := .txnRB) rfl hready, exec_ready (i := .txnRR) rfl hready, exec_ready (i := .txnWB) rfl hready,
    exec_ready (i := .txnWR) rfl hready]
  simp only [bodyOf]
  refine ⟨fun hin => ?_, fun hout => ?_, ?_, ?_, ?_⟩
  · rw [encRBBody_of_countOk (s := acceptPrologue s) ((countOk_iff _).2 hin), startExchange_putRequest_acceptPrologue,
      acceptPrologue_count, explenOf_buildReq_readBits]
  · have hcount : ¬ countOk s.count = true := by rw [countOk_iff]; omega
    rw [encRBBody_of_not_countOk (s := acceptPrologue s) hcount, raiseErr_dropRequest,
      raiseErr_acceptPrologue (by decide), dropRequest]
  · rw [encRRBody, startExchange_putRequest_acceptPrologue, explenOf_readRegister rfl]
  · rw [encWBBody, startExchange_putRequest_acceptPrologue, explenOf_writeBit rfl]
    rfl
  · rw [encWRBody, startExchange_putRequest_acceptPrologue, explenOf_writeRegister rfl, acceptPrologue_value]

/-! ### the SEND step -/

theorem sendStep_ok (s : State) : sendStep .ok s = { chanWrite s with phase := .recv } := rfl

theorem sendStep_fail (s : State) : sendStep .fail s = raiseErr .channelError (chanWrite s) := rfl

/-- Settles O41: each of the five rows transmits its own frame, which is the one in TXBUF, so its SEND step runs. -/
theorem sendStepTransmitsTheRequest : Obligations.SendStepTransmitsTheRequest := by
  unfold Obligations.SendStepTransmitsTheRequest
  intro s rest i sl a w c hi hsend
  have hrow : encode i = .request s.txbuf.toList := by
    obtain ⟨rfl, hf⟩ | ⟨rfl, hf⟩ | ⟨rfl, hf⟩ | ⟨rfl, hf⟩ | ⟨rfl, hf⟩ := hi <;> rw [hf] <;> rfl
  rw [exec_request hrow]
  refine ⟨fun he => ?_, fun he => ?_⟩
  · rw [transmit_answered hsend rfl he, sendStep_ok, chanWrite, popEvent, he]
    rfl
  · rw [transmit_answered hsend rfl he, sendStep_fail, raiseErr_eq_ended (by decide), chanWrite, popEvent, he]
    rfl

/-! ### bursts and unawaited events -/

/-- What a byte does to the block does not depend on the schedule. -/
theorem rxByte_withEvents (s : State) (es : List Event) (b : Byte) :
    rxByte { s with events := es } b = { rxByte s b with events := es } :=
  rxByte_apply { events := some es } s b

/-- Settles O45: the first byte as an event of its own leaves the rest of the burst as the next event, on the same
block. -/
theorem burstIsItsBytes : Obligations.BurstIsItsBytes := by
  unfold Obligations.BurstIsItsBytes
  intro s rest
  refine ⟨fun b bs he => ?_, fun he => ?_⟩
  · have hfirst : receive [b] { s with events := .rx bs :: rest } = { rxByte s b with events := .rx bs :: rest } :=
      rxByte_withEvents s _ b
    refine ⟨{ rxByte s b with events := .rx bs :: rest }, ?_, rfl, ?_⟩
    · rw [← hfirst]
      exact step_rx rfl
    · rw [step_rx he, step_rx rfl, receive_cons, rxByte_withEvents]
  · rw [step_rx he, receive_nil]

/-- Settles O46: both operations ask for PHASE = RECV first. -/
theorem unawaitedEventsAreDropped : Obligations.UnawaitedEventsAreDropped := by
  unfold Obligations.UnawaitedEventsAreDropped
  intro s rest hphase
  refine ⟨fun bs he => ?_, fun he => ?_⟩
  · rw [step_rx he, receive_dropped (s := { s with events := rest }) hphase]
  · rw [step_rxTimeout he, timeoutStep, if_neg hphase]

/-! ### reset -/

/-- Settles O2: reset is the table of R231 whatever the state is, and after it PHASE is IDLE, so bytes are dropped. -/
theorem resetEndsAnExchange : Obligations.ResetEndsAnExchange := by
  unfold Obligations.ResetEndsAnExchange
  refine ⟨fun s rest he => ?_, fun n bs rest rs ss => ⟨reset_toWord, ?_⟩⟩
  · rw [step_reset he, resetBlock, popEvent_events, he]
    rfl
  · have hidle : (State.afterReset n rest rs ss).phase = .idle := rfl
    have hdropped := receive_dropped (s := State.afterReset n rest rs ss) (by rw [hidle]; decide) bs
    exact (step_rx rfl).trans (congrArg _ hdropped)

end Sys2Proof.Machine

/-! ## Proofs: attempts, transmissions and the end of a command

ATTEMPTS counts the requests handed to CHANNEL, and every awaited event uses up one of a bounded number (10_state.md
R28, 43_arbiter.md section 3, R184). -/

namespace Sys2Proof.Machine

/-- A step that is no SEND step hands nothing over, and keeps ATTEMPTS or clears it. -/
theorem step_keeps_counts {s t : State} (hstep : step s = .next t)
    (hother : s.phase ≠ .send ∨ ∀ ans rest, s.events ≠ .tx ans :: rest) :
    t.sent = s.sent ∧ (t.status.attempts = s.status.attempts ∨ (t.status.attempts = 0 ∧ beginsAnew s)) := by
  cases step_cases hstep with
  | idle _ => exact ⟨rfl, .inl rfl⟩
  | read a rest _ => exact ⟨rfl, .inl rfl⟩
  | stray _ _ _ _ => exact ⟨rfl, .inl rfl⟩
  | write a v rest _ _ =>
    obtain ⟨-, e⟩ | ⟨-, -, e⟩ | ⟨-, -, e⟩ := writeReg_cases (hostReg a) v (popEvent s) <;> rw [e]
    · exact ⟨rfl, .inl rfl⟩
    · exact ⟨rfl, .inl rfl⟩
    · obtain ⟨-, -, -, hsent⟩ := storeReg_keeps_engine (hostReg a) v (popEvent s)
      exact ⟨hsent, .inl (congrArg Status.attempts (storeReg_status _ _ _))⟩
  | command a c rest he ha =>
    rw [(hostReg_eq_cmd a).1 ha] at he
    by_cases hbusy : s.status.busy = true
    · rw [issue_busy (s := popEvent s) hbusy]
      exact ⟨rfl, .inl rfl⟩
    · have hready : s.status.busy = false := Bool.eq_false_iff.2 hbusy
      rw [issue_ready (s := popEvent s) hready]
      obtain ⟨hatt, -, hsent⟩ := commandBody_keeps_counts c (acceptPrologue (popEvent s))
      exact ⟨hsent, .inr ⟨hatt, .inr ⟨hready, c, rest, he⟩⟩⟩
  | send ans rest he hsend =>
    exfalso
    obtain hphase | hevent := hother
    · exact hphase hsend
    · exact hevent ans rest he
  | rx bs rest _ =>
    obtain ⟨hatt, -, hsent⟩ := receive_keeps_counts bs (popEvent s)
    exact ⟨hsent, .inl hatt⟩
  | timeout rest _ =>
    obtain ⟨-, e⟩ | ⟨-, -, e⟩ | ⟨-, -, e⟩ := timeoutStep_cases (popEvent s) <;> rw [e] <;> exact ⟨rfl, .inl rfl⟩
  | reset rest he => exact ⟨rfl, .inr ⟨rfl, .inl ⟨rest, he⟩⟩⟩

/-- The SEND step hands TXBUF over and counts one attempt. -/
theorem sendStep_counts (ans : TxAnswer) (s : State) :
    (sendStep ans s).sent = s.sent ++ [s.txbuf] ∧ (sendStep ans s).status.attempts = s.status.attempts + 1 := by
  cases ans <;> exact ⟨rfl, rfl⟩

theorem popEvent_eq {s : State} {e : Event} {rest : List Event} (he : s.events = e :: rest) :
    popEvent s = { s with events := rest } := by
  rw [popEvent, he]
  rfl

theorem step_send {s t : State} {ans : TxAnswer} {rest : List Event} (hsend : s.phase = .send)
    (he : s.events = .tx ans :: rest) (hstep : step s = .next t) : t = sendStep ans (popEvent s) := by
  rw [step_tx he, txAccess_eq he hsend] at hstep
  cases hstep
  rfl

/-- Reset and the prologue clear ATTEMPTS (70_reset_and_hazards.md R231, 60_exceptions.md R203). -/
theorem beginsAnew_clears {s t : State} (hanew : beginsAnew s) (hstep : step s = .next t) :
    t.status.attempts = 0 := by
  obtain ⟨rest, he⟩ | ⟨hready, c, rest, he⟩ := hanew
  · rw [step_reset he] at hstep
    cases hstep
    rfl
  · rw [step_hostWrite_cmd he rfl, issue_ready (s := { s with events := rest }) hready] at hstep
    cases hstep
    obtain ⟨hatt, -, -⟩ := commandBody_keeps_counts c (acceptPrologue { s with events := rest })
    exact hatt

/-- Below 2 by the invariant, the count does not wrap (log 14). -/
theorem StateInv.step_sends {s t : State} (hinv : StateInv s) (hstep : Machine.step s = .next t) {ans : TxAnswer}
    {rest : List Event} (hsend : s.phase = .send) (he : s.events = .tx ans :: rest) :
    t.sent = s.sent ++ [s.txbuf] ∧ t.status.attempts.toNat = s.status.attempts.toNat + 1 := by
  obtain ⟨hsent, hatt⟩ := sendStep_counts ans (Machine.popEvent s)
  rw [step_send hsend he hstep, hsent, hatt]
  exact ⟨rfl, attempts_add_one (hinv.send_attempts hsend)⟩

/-- A step is a SEND step or it is none. -/
theorem send_or_not (s : State) :
    (s.phase ≠ .send ∨ ∀ ans rest, s.events ≠ .tx ans :: rest) ∨
      (s.phase = .send ∧ ∃ ans rest, s.events = .tx ans :: rest) := by
  by_cases hsend : s.phase = .send
  · by_cases he : ∃ ans rest, s.events = .tx ans :: rest
    · exact .inr ⟨hsend, he⟩
    · exact .inl (.inr fun ans rest h => he ⟨ans, rest, h⟩)
  · exact .inl (.inl hsend)

/-- Settles O59: the SEND step grows the log and the count, every other step neither. -/
theorem attemptsCountTransmissions : Obligations.AttemptsCountTransmissions := by
  unfold Obligations.AttemptsCountTransmissions
  intro s t hinv hstep
  refine ⟨?_, fun ans rest hsend he => ?_, step_keeps_counts hstep, fun hanew => beginsAnew_clears hanew hstep⟩
  · obtain hother | ⟨hsend, ans, rest, he⟩ := send_or_not s
    · obtain ⟨hsent, hatt⟩ := step_keeps_counts hstep hother
      rw [hsent]
      refine iff_of_false (by simp) ?_
      obtain hatt | ⟨hatt, -⟩ := hatt <;> rw [hatt] <;> simp
    · obtain ⟨hsent, hatt⟩ := hinv.step_sends hstep hsend he
      exact iff_of_true hsent hatt
  · obtain ⟨hsent, -⟩ := hinv.step_sends hstep hsend he
    exact hsent

/-! ### a whole run -/

/-- Since the state `s₀` in which a command was accepted TXBUF is as it was, and it has been handed to CHANNEL ATTEMPTS
times. -/
structure SentSince (s₀ s : State) : Prop where
  inv : StateInv s
  txbuf : s.txbuf = s₀.txbuf
  sent : s.sent = s₀.sent ++ List.replicate s.status.attempts.toNat s₀.txbuf

theorem SentSince.step {s₀ s t : State} (h : SentSince s₀ s) (hstep : step s = .next t) (hsame : ¬ beginsAnew s) :
    SentSince s₀ t := by
  obtain ⟨hinv, htxbuf, hsent⟩ := h
  have hbuf : t.txbuf = s.txbuf := by
    by_contra hne
    obtain hreset | ⟨hready, c, rest, he, -⟩ := txbufIsWrittenByEncodersOnly s t hstep (.inl hne)
    · exact hsame (.inl hreset)
    · exact hsame (.inr ⟨hready, c, rest, he⟩)
  refine ⟨hinv.step hstep, hbuf.trans htxbuf, ?_⟩
  obtain hother | ⟨hsend, ans, rest, he⟩ := send_or_not s
  · obtain ⟨hlog, hatt | ⟨-, hanew⟩⟩ := step_keeps_counts hstep hother
    · rw [hlog, hsent, hatt]
    · exact absurd hanew hsame
  · obtain ⟨hlog, hatt⟩ := hinv.step_sends hstep hsend he
    rw [hlog, hatt, hsent, htxbuf, List.replicate_succ', List.append_assoc]

theorem run_succ {k : Nat} {s u : State} (hstep : step s = .next u) :
    Host.Core.run Sys2Proof.core (k + 1) s = Host.Core.run Sys2Proof.core k u := by
  have hcore : Sys2Proof.core.step s = .next u := hstep
  simp only [Host.Core.run, hcore]

theorem SentSince.run {s₀ : State} (k : Nat) {s t : State} (h : SentSince s₀ s)
    (hsame : ∀ j < k, ∀ u, Host.Core.run Sys2Proof.core j s = .next u → ¬ beginsAnew u)
    (hrun : Host.Core.run Sys2Proof.core k s = .next t) : SentSince s₀ t := by
  induction k generalizing s with
  | zero =>
    injection hrun with hrun
    exact hrun ▸ h
  | succ k ih =>
    obtain ⟨u, hu, -⟩ := step_total s
    have hnow : ¬ beginsAnew s := hsame 0 (Nat.succ_pos k) s rfl
    refine ih (h.step hu hnow) (fun j hj v hv => hsame (j + 1) (Nat.succ_lt_succ hj) v ?_) ?_
    · rw [run_succ hu, hv]
    · rw [← run_succ hu, hrun]

/-- Settles O58: at acceptance nothing has been sent, and the invariant bounds ATTEMPTS by 2. -/
theorem atMostTwoIdenticalRequests : Obligations.AtMostTwoIdenticalRequests := by
  unfold Obligations.AtMostTwoIdenticalRequests
  intro k s t hinv _ hfirst hsame hrun
  have hstart : SentSince s s := ⟨hinv, rfl, by rw [hfirst]; simp⟩
  obtain ⟨hinv', -, hsent⟩ := hstart.run k hsame hrun
  exact ⟨_, hinv'.attempts_le, rfl, hsent⟩

/-! ### the bound on awaited events -/

section
variable {s : State}

theorem workLeft_idle (h : s.phase = .idle) : workLeft s = 0 := by simp [workLeft, h]

theorem workLeft_send (h : s.phase = .send) : workLeft s = (2 - s.status.attempts.toNat) * 257 := by
  simp [workLeft, h]

theorem workLeft_recv (h : s.phase = .recv) :
    workLeft s = (2 - s.status.attempts.toNat) * 257 + (256 - s.rxLen.toNat) := by
  simp [workLeft, h]

/-- A response being received has at most 254 bytes yet. -/
theorem StateInv.rxLen_lt (h : StateInv s) (hrecv : s.phase = .recv) : s.rxLen.toNat < 255 := by
  obtain ⟨-, hmax⟩ := h.explen_bounds (by rw [hrecv]; decide)
  obtain ⟨hlt, -⟩ := h.recv_open hrecv
  omega

theorem workLeft_pos (h : StateInv s) (hbusy : s.phase ≠ .idle) : 0 < workLeft s := by
  cases hphase : s.phase with
  | idle => exact absurd hphase hbusy
  | send =>
    have hfirst := h.send_attempts hphase
    rw [workLeft_send hphase]
    omega
  | recv =>
    have hlen := h.rxLen_lt hphase
    rw [workLeft_recv hphase]
    omega

theorem workLeft_le (h : StateInv s) : workLeft s ≤ 514 := by
  cases hphase : s.phase with
  | idle =>
    rw [workLeft_idle hphase]
    omega
  | send =>
    rw [workLeft_send hphase]
    omega
  | recv =>
    have hsent := h.recv_attempts hphase
    rw [workLeft_recv hphase]
    omega

theorem workLeft_sendStep (h : StateInv s) (hsend : s.phase = .send) (ans : TxAnswer) :
    workLeft (sendStep ans s) < workLeft s := by
  have hpos := workLeft_pos h (by rw [hsend]; decide)
  cases ans with
  | fail => rwa [workLeft_idle (s := sendStep .fail s) rfl]
  | ok =>
    have hfirst := h.send_attempts hsend
    have hatt : (sendStep .ok s).status.attempts.toNat = s.status.attempts.toNat + 1 := attempts_add_one hfirst
    have hlen : (sendStep .ok s).rxLen.toNat = 0 := rfl
    rw [workLeft_recv (s := sendStep .ok s) rfl, workLeft_send hsend, hatt, hlen]
    omega

theorem workLeft_rxByte (h : StateInv s) (hrecv : s.phase = .recv) (b : Byte) :
    workLeft (rxByte s b) < workLeft s := by
  have hpos := workLeft_pos h (by rw [hrecv]; decide)
  have hlen := h.rxLen_lt hrecv
  obtain ⟨hno, -⟩ | ⟨-, -, e⟩ | ⟨-, -, e⟩ := rxByte_cases s b
  · exact absurd hrecv hno
  · rw [e, workLeft_recv (s := appendRx b s) hrecv, workLeft_recv hrecv, appendRx_toNat b s (by omega),
      appendRx_status]
    omega
  · obtain ⟨hidle, -⟩ := complete_keeps (appendRx b s)
    rwa [e, workLeft_idle hidle]

theorem workLeft_timeoutStep (h : StateInv s) (hrecv : s.phase = .recv) :
    workLeft (timeoutStep s) < workLeft s := by
  have hpos := workLeft_pos h (by rw [hrecv]; decide)
  have hlen := h.rxLen_lt hrecv
  obtain ⟨hno, -⟩ | ⟨-, -, e⟩ | ⟨-, -, e⟩ := timeoutStep_cases s
  · exact absurd hrecv hno
  · have hagain : workLeft (timeoutStep s) = (2 - s.status.attempts.toNat) * 257 := by
      rw [e]
      exact workLeft_send rfl
    rw [hagain, workLeft_recv hrecv]
    omega
  · rwa [e, workLeft_idle (s := raiseErr (timeoutKind s) s) rfl]

end

theorem awaited_cases {s : State} {e : Event} (h : awaited s e) :
    (s.phase = .send ∧ ∃ ans, e = .tx ans) ∨ (s.phase = .recv ∧ e = .rxTimeout) ∨
      (s.phase = .recv ∧ ∃ b, e = .rx [b]) := by
  cases hphase : s.phase <;> simp only [awaited, hphase] at h
  · obtain rfl | rfl := h
    · exact .inl ⟨rfl, _, rfl⟩
    · exact .inl ⟨rfl, _, rfl⟩
  · obtain rfl | hbyte := h
    · exact .inr (.inl ⟨rfl, rfl⟩)
    · exact .inr (.inr ⟨rfl, hbyte⟩)

/-- Settles O60: the bound is that of R184, and an answer, a byte and a timeout each take something off it. -/
theorem awaitedEventsEndTheCommand : Obligations.AwaitedEventsEndTheCommand := by
  unfold Obligations.AwaitedEventsEndTheCommand
  refine ⟨fun s h => ⟨workLeft_le h, fun hzero => ?_, fun hready => ?_⟩, fun s t e rest h he hawaits hstep => ?_⟩
  · rw [Bool.eq_false_iff, Ne, h.busy_iff, not_not]
    exact not_not.1 fun hbusy => Nat.ne_of_gt (workLeft_pos h hbusy) hzero
  · exact workLeft_idle (h.idle_of_ready hready)
  · have hinv : StateInv { s with events := rest } := h.withEvents rest
    obtain ⟨hsend, ans, rfl⟩ | ⟨hrecv, rfl⟩ | ⟨hrecv, b, rfl⟩ := awaited_cases hawaits
    · rw [step_send hsend he hstep, popEvent_eq he]
      exact workLeft_sendStep hinv hsend ans
    · rw [step_rxTimeout he] at hstep
      cases hstep
      exact workLeft_timeoutStep hinv hrecv
    · rw [step_rx he] at hstep
      cases hstep
      exact workLeft_rxByte hinv hrecv b

end Sys2Proof.Machine

/-! ## Proofs: how a response ends the command

The bytes that complete a response are appended and the command ends as DEC_x would at acceptance, with ATTEMPTS and IGN
kept (43_arbiter.md R176, R177); what DEC_x does with a frame is read off its own statements. -/

namespace Sys2Proof.Machine

/-! ### completion, and the decode command it stands for -/

/-- The flags of a running command (10_state.md R43, 60_exceptions.md R203). -/
structure RunningFlags (s : State) : Prop where
  done : s.status.done = false
  err : s.status.err = false
  rvalid : s.status.rvalid = false
  errKind : s.status.errKind = .none
  excv : s.status.excv = false
  exc : s.exc = 0

theorem StateInv.runningFlags {s : State} (h : StateInv s) (hbusy : s.phase ≠ .idle) : RunningFlags s := by
  obtain ⟨hdone, herr, hrvalid, hexcv, hexc⟩ := h.busy_flags hbusy
  have hkind : s.status.errKind = .none := not_not.1 fun hk => Bool.false_ne_true (herr.symm.trans (h.err_iff.2 hk))
  exact ⟨hdone, herr, hrvalid, hkind, hexcv, hexc⟩

/-- What the prologue does to the two counts. -/
def Rewriting.clearsCounts : Rewriting := { attempts := some 0, ign := some false }

/-- A running command's state, taken for idle, is what an accepted command's body would start from, counts aside. -/
theorem acceptPrologue_idle {u : State} (h : RunningFlags u) :
    acceptPrologue { u with phase := .idle, status := { u.status with busy := false } } =
      Rewriting.clearsCounts.reopen .idle false u := by
  obtain ⟨hdone, herr, hrvalid, hkind, hexcv, hexc⟩ := h
  simp [acceptPrologue, Status.accept, Rewriting.reopen, Rewriting.apply, Rewriting.clearsCounts, hdone, herr, hrvalid,
    hkind, hexcv, hexc]

/-- The body of a command on a running state is what the command makes of it at acceptance, counts kept. -/
theorem decodedBy_bodyOf {i : Instr} {c : Word} (hi : encode i = .command c) (hblind : Blind (bodyOf i)) {u : State}
    (h : RunningFlags u) : decodedBy i u (bodyOf i u) := by
  obtain ⟨hatt, hign, -⟩ := commandBody_keeps_counts c u
  rw [commandBody_of_encode hi] at hatt hign
  refine ⟨Rewriting.clearsCounts.apply (bodyOf i u), ?_, ?_⟩
  · rw [exec_ready hi rfl, acceptPrologue_idle h, hblind]
  · rw [← hatt, ← hign]
    rfl

/-- The end of a command in kind `k`: STATUS is that of an ended command, counts kept, and the bytes of `t` have been
received. -/
def endedAs (k : ErrKind) (rvalid excv : Bool) (s t : State) : State :=
  { s with
    rxLen := t.rxLen, rxbuf := t.rxbuf, phase := .idle,
    status := endedStatus k rvalid excv s.status.attempts s.status.ign }

/-- DEC_x of TXN_x (43_arbiter.md R177). -/
def decoderOf : Op → Option Instr
  | .xfer => none
  | .txnRB => some .decRB
  | .txnRR => some .decRR
  | .txnWB => some .decWB
  | .txnWR => some .decWR

theorem decoderOf_eq_none_iff (o : Op) : decoderOf o = none ↔ o = .xfer := by cases o <;> simp [decoderOf]

theorem decoderOf_blind {o : Op} {i : Instr} (hi : decoderOf o = some i) :
    ∃ c, encode i = .command c ∧ Blind (bodyOf i) := by
  cases o <;> cases hi
  · exact ⟨_, rfl, decRBBody_blind⟩
  · exact ⟨_, rfl, decRRBody_blind⟩
  · exact ⟨_, rfl, decWBBody_blind⟩
  · exact ⟨_, rfl, decWRBody_blind⟩

theorem complete_of_xfer {u : State} (ho : u.op = .xfer) : complete u = finishOk u := by rw [complete, ho]

theorem complete_of_decoder {u : State} {i : Instr} (hi : decoderOf u.op = some i) : complete u = bodyOf i u := by
  rw [complete]
  cases ho : u.op <;> rw [ho] at hi <;> cases hi <;> rfl

section
variable {s t : State}

theorem completedAs_iff_of_xfer (ho : s.op = .xfer) : completedAs s t ↔ t = endedAs .none false false s t := by
  unfold completedAs
  split
  case h_1 => exact Iff.rfl
  all_goals
    rename_i hother
    rw [ho] at hother
    cases hother

theorem completedAs_iff_of_decoder {i : Instr} (hi : decoderOf s.op = some i) :
    completedAs s t ↔ decodedBy i { s with rxLen := t.rxLen, rxbuf := t.rxbuf } t := by
  unfold completedAs
  split
  all_goals
    rename_i ho
    rw [ho] at hi
    cases hi
  all_goals exact Iff.rfl

end

/-- Completion is the end the spec gives the command, on a state that differs from `s` by the bytes received. -/
theorem completedAs_complete {s u : State} (hu : u = { s with rxbuf := u.rxbuf, rxLen := u.rxLen })
    (h : RunningFlags u) : completedAs s (complete u) := by
  obtain ⟨-, -, -, -, hbuf, hlen, -, -, -⟩ := complete_keeps u
  have hop : u.op = s.op := by rw [hu]
  cases hi : decoderOf s.op with
  | none =>
    have ho := (decoderOf_eq_none_iff _).1 hi
    have hend : finishOk u = endedAs .none false false u u := by
      simp [finishOk, Status.finishOk, endedAs, endedStatus, h.rvalid, h.excv]
    rw [completedAs_iff_of_xfer ho, complete_of_xfer (hop.trans ho), hend]
    conv_lhs => rw [hu]
    rfl
  | some i =>
    obtain ⟨c, hc, hblind⟩ := decoderOf_blind hi
    rw [completedAs_iff_of_decoder hi, hbuf, hlen, ← hu, complete_of_decoder (hop ▸ hi)]
    exact decodedBy_bodyOf hc hblind h

/-! ### one byte -/

theorem RunningFlags.appendRx {s : State} (h : RunningFlags s) (b : Byte) : RunningFlags (appendRx b s) :=
  ⟨h.done, h.err, h.rvalid, h.errKind, h.excv, h.exc⟩

/-- When the byte that comes next completes the response, by the bytes before it. -/
theorem rxComplete_appendRx_iff {s : State} (b : Byte) (h : s.rxLen.toNat < 256) :
    rxComplete (appendRx b s) = true ↔
      s.rxLen.toNat + 1 = s.explen ∨ (s.rxLen.toNat + 1 = 5 ∧ 0x80 ≤ (rxAt s 1).toNat) := by
  rw [rxComplete_iff, appendRx_toNat b s (by omega), appendRx_explen, byte_getLsbD_seven_iff]
  by_cases hfive : s.rxLen.toNat + 1 = 5
  · rw [rxAt_appendRx_other s b (show 1 ≠ s.rxLen.toNat by omega)]
  · simp [hfive]

/-- Settles O42: the byte is appended, and either reception goes on or the command completes on the bytes now in
RXBUF. -/
theorem receivedByteIsAppended : Obligations.ReceivedByteIsAppended := by
  unfold Obligations.ReceivedByteIsAppended
  intro s b rest hinv he hrecv
  have hroom : s.rxLen.toNat < 256 := Nat.lt_trans (hinv.rxLen_lt hrecv) (by decide)
  have hinv' : StateInv { s with events := rest } := hinv.withEvents rest
  have hflags : RunningFlags { s with events := rest } := hinv'.runningFlags (by rw [hrecv]; decide)
  have hframe : rxFrame (appendRx b { s with events := rest }) = rxFrame s ++ [b] :=
    rxFrame_appendRx { s with events := rest } b hroom
  have hbeyond : ∀ i, s.rxLen.toNat < i → rxAt (appendRx b { s with events := rest }) i = rxAt s i := fun i hi =>
    rxAt_appendRx_other { s with events := rest } b (Nat.ne_of_gt hi)
  have hfull := rxComplete_appendRx_iff (s := { s with events := rest }) b hroom
  rw [step_rx he, receive_cons, receive_nil]
  refine ⟨_, rfl, ?_⟩
  obtain ⟨hno, -⟩ | ⟨-, hopen, e⟩ | ⟨-, hclosed, e⟩ := rxByte_cases { s with events := rest } b
  · exact absurd hrecv hno
  · rw [e]
    have hnot := mt hfull.2 (Bool.eq_false_iff.1 hopen)
    exact ⟨hframe, hbeyond, iff_of_true hrecv hnot, fun _ => rfl, fun hp => absurd hrecv hp⟩
  · rw [e]
    obtain ⟨hidle, -, -, -, hbuf, hlen, hera, -, -⟩ := complete_keeps (appendRx b { s with events := rest })
    have hnot : (complete (appendRx b { s with events := rest })).phase ≠ .recv := by rw [hidle]; decide
    refine ⟨(rxFrame_congr hbuf hera hlen).trans hframe, fun i hi => (rxAt_congr hbuf hera i).trans (hbeyond i hi),
      iff_of_false hnot (not_not.2 (hfull.1 hclosed)), fun hp => absurd hp hnot, fun _ => ⟨hidle, ?_⟩⟩
    exact completedAs_complete rfl (RunningFlags.appendRx hflags b)

/-! ### the bytes that complete a response -/

/-- The state in which DEC_x is taken to run: `s` with the bytes of `t` in RXBUF and no command running. -/
def idleWith (s t : State) : State :=
  { s with rxLen := t.rxLen, rxbuf := t.rxbuf, phase := .idle, status := { s.status with busy := false } }

@[simp] theorem idleWith_count (s t : State) : (idleWith s t).count = s.count := rfl

theorem completes_length {s : State} {bs : List Byte} (h : completes s bs) :
    s.rxLen.toNat + bs.length = 5 ∨ s.rxLen.toNat + bs.length = s.explen := by
  unfold completes at h
  rw [List.length_append, rxFrame_length] at h
  split at h
  · exact .inl h
  · exact .inr h

theorem RunningFlags.appendAll {s : State} (h : RunningFlags s) (bs : List Byte) : RunningFlags (appendAll bs s) := by
  rw [appendAll_eq]
  exact ⟨h.done, h.err, h.rvalid, h.errKind, h.excv, h.exc⟩

/-- Reception of the bytes that complete a response, late bytes or not. -/
theorem receive_completed {s : State} {bs : List Byte} (hinv : StateInv s) (hrecv : s.phase = .recv)
    (hc : completes s bs) (late : List Byte) :
    receivedFrame (rxFrame s ++ bs) s (receive (bs ++ late) s) ∧ completedAs s (receive (bs ++ late) s) ∧
      (receive (bs ++ late) s).phase = .idle ∧ (receive (bs ++ late) s).status.done = true ∧
      rxFrame (idleWith s (receive (bs ++ late) s)) = rxFrame s ++ bs := by
  have hbusy : s.phase ≠ .idle := by rw [hrecv]; decide
  obtain ⟨hmin, hmax⟩ := hinv.explen_bounds hbusy
  have hlength := completes_length hc
  obtain ⟨-, hframe, hbeyond⟩ := appendAll_frame bs s (by omega)
  rw [receive_completes late hrecv (hinv.recv_open hrecv) ⟨hmin, hmax⟩ hc]
  obtain ⟨hidle, hdone, -, -, hbuf, hlen, hera, -, -⟩ := complete_keeps (appendAll bs s)
  have hkeep : (appendAll bs s).era = s.era := by rw [appendAll_eq]
  refine ⟨⟨(rxFrame_congr hbuf hera hlen).trans hframe, fun i hi => ?_⟩, ?_, hidle, hdone, ?_⟩
  · rw [List.length_append, rxFrame_length] at hi
    exact (rxAt_congr hbuf hera i).trans (hbeyond i hi)
  · exact completedAs_complete (appendAll_eq bs s) ((hinv.runningFlags hbusy).appendAll bs)
  · rw [← hframe]
    exact rxFrame_congr hbuf hkeep.symm hlen

/-- Settles O43: one reception, in pieces or not, by a response row or not. -/
theorem completedResponseIsDecoded : Obligations.CompletedResponseIsDecoded := by
  unfold Obligations.CompletedResponseIsDecoded
  intro s bs late rest hinv hrecv he hc
  have hinv' : StateInv { s with events := rest } := hinv.withEvents rest
  obtain ⟨hframe, hend, hidle, hdone, -⟩ := receive_completed hinv' hrecv hc late
  obtain ⟨hatt, -, hsent⟩ := receive_keeps_counts (bs ++ late) { s with events := rest }
  exact ⟨_, step_rx he, hframe, hend, hidle, hdone, hatt, hsent, fun i hi => exec_response hi _⟩

theorem rxFrame_of_empty {s : State} (hempty : s.rxLen = 0) : rxFrame s = [] := by
  rw [← List.length_eq_zero_iff, rxFrame_length, hempty]
  rfl

/-- A whole frame received by a response row. -/
theorem exec_whole_frame {s : State} {i : Instr} {bs : List Byte} (hinv : StateInv s) (hrecv : s.phase = .recv)
    (hempty : s.rxLen = 0) (hi : encode i = .response bs) (hc : completes s bs) :
    ∃ t, exec i s = .next t ∧ receivedFrame bs s t ∧ completedAs s t ∧ rxFrame (idleWith s t) = bs := by
  obtain ⟨hframe, hend, -, -, hidle⟩ := receive_completed hinv hrecv hc []
  rw [rxFrame_of_empty hempty, List.nil_append, List.append_nil] at hframe hidle
  rw [List.append_nil] at hend
  exact ⟨_, exec_response hi s, hframe, hend, hidle⟩

theorem completes_normal {s : State} {bs : List Byte} (hempty : s.rxLen = 0) (hfc : (byteAt bs 1).toNat < 0x80)
    (hlen : s.explen = bs.length) : completes s bs := by
  rw [completes, rxFrame_of_empty hempty, List.nil_append, if_neg (by omega), hlen]

theorem completes_exception {s : State} {bs : List Byte} (hempty : s.rxLen = 0) (hfc : 0x80 ≤ (byteAt bs 1).toNat)
    (hlen : bs.length = 5) : completes s bs := by
  rwa [completes, rxFrame_of_empty hempty, List.nil_append, if_pos hfc]

end Sys2Proof.Machine

/-! ## Proofs: the ends of a received response

For each kind of frame the ladder of DEC_x at acceptance (42_decoder.md R142 to R151) says how TXN_x ends; XFER ends in
success whatever the frame is. -/

namespace Sys2Proof.Machine

/-! ### the ladder on each kind of frame -/

section
variable {efc : Byte} {rx : List Byte} {s rest : State} (hlong : 4 ≤ rx.length)
include hlong

theorem frameLadder_badCrc (hcrc : crcOk rx = false) : frameLadder efc rx s rest = failedWith .crcMismatch s := by
  rw [frameLadder, if_neg (by omega), if_pos hcrc]

variable (hcrc : crcOk rx = true)
include hcrc

theorem frameLadder_foreign (hnormal : (byteAt rx 1).toNat < 0x80) (hne : byteAt rx 1 ≠ efc) :
    frameLadder efc rx s rest = failedWith .protocolError s := by
  rw [frameLadder, if_neg (by omega), if_neg (by simp [hcrc]), if_neg (by omega), if_pos hne]

theorem frameLadder_passes (hfc : byteAt rx 1 = efc) (hnormal : efc.toNat < 0x80) :
    frameLadder efc rx s rest = rest := by
  rw [frameLadder, if_neg (by omega), if_neg (by simp [hcrc]), if_neg (by rw [hfc]; omega), if_neg (not_not.2 hfc)]

theorem frameLadder_foreignException (hexc : 0x80 ≤ (byteAt rx 1).toNat)
    (hne : (byteAt rx 1).toNat - 0x80 ≠ efc.toNat) : frameLadder efc rx s rest = failedWith .protocolError s := by
  rw [frameLadder, if_neg (by omega), if_neg (by simp [hcrc]), if_pos hexc, if_pos hne]

end

theorem frameLadder_exception {efc : Byte} {rx : List Byte} {s rest : State} (hfive : rx.length = 5)
    (hcrc : crcOk rx = true) (hexc : 0x80 ≤ (byteAt rx 1).toNat) (hfc : (byteAt rx 1).toNat - 0x80 = efc.toNat) :
    frameLadder efc rx s rest = exceptedWith (byteAt rx 2) s := by
  rw [frameLadder, if_neg (by omega), if_neg (by simp [hcrc]), if_pos hexc, if_neg (not_not.2 hfc),
    if_neg (not_not.2 hfive)]

/-! ### TXN_x as the ladder of its decode command -/

/-- `v`, but ATTEMPTS and IGN are those of `s`. -/
def keepCounts (s v : State) : State :=
  { v with status := { v.status with attempts := s.status.attempts, ign := s.status.ign } }

section
variable {s t : State}

/-- A TXN_x ends as its decode command would, taken to run on the frame received. -/
theorem eq_keepCounts {i : Instr} {v : State} (hi : decoderOf s.op = some i) (hend : completedAs s t)
    (hexec : exec i (idleWith s t) = .next v) : t = keepCounts s v := by
  obtain ⟨v', hv, ht⟩ := (completedAs_iff_of_decoder hi).1 hend
  have hsame : exec i (idleWith s t) = .next v' := hv
  rw [hexec] at hsame
  cases hsame
  exact ht

/-- Whatever TXN_x runs, its frame check is for the function code of the request in TXBUF. -/
theorem eq_ladder_of_txn (hinv : StateInv s) (hbusy : s.phase ≠ .idle) (hop : s.op ≠ .xfer)
    (hend : completedAs s t) :
    ∃ rest, t = keepCounts s (frameLadder s.txbuf[1] (rxFrame (idleWith s t)) (idleWith s t) rest) := by
  have hargs := hinv.busy_args hbusy
  unfold requestFitsArgs at hargs
  cases ho : s.op <;> simp only [ho] at hargs
  case xfer => exact absurd ho hop
  case txnRB =>
    obtain ⟨hcount, hreq⟩ := hargs
    obtain ⟨hleast, hmost⟩ := (countOk_iff _).1 hcount
    obtain ⟨-, hdec⟩ := decRbUnpacksOrFails (idleWith s t) rfl
    obtain ⟨good, -, hexec⟩ := hdec hleast hmost
    rw [hreq]
    exact ⟨_, eq_keepCounts (congrArg decoderOf ho) hend hexec⟩
  case txnRR =>
    rw [hargs]
    exact ⟨_, eq_keepCounts (congrArg decoderOf ho) hend (decRrExtractsTheWord (idleWith s t) rfl)⟩
  case txnWB =>
    rw [hargs]
    exact ⟨_, eq_keepCounts (congrArg decoderOf ho) hend (decWbChecksTheEcho (idleWith s t) rfl)⟩
  case txnWR =>
    rw [hargs]
    exact ⟨_, eq_keepCounts (congrArg decoderOf ho) hend (decWrChecksTheEcho (idleWith s t) rfl)⟩

/-! ### the ends, counts kept -/

section
variable (hexc : s.exc = 0)
include hexc

theorem keepCounts_failedWith {k : ErrKind} :
    keepCounts s (failedWith k (idleWith s t)) = endedAs k false false s t := by
  simp [keepCounts, failedWith, idleWith, endedAs, endedStatus, hexc]

theorem keepCounts_succeeded : keepCounts s (succeeded (idleWith s t)) = endedAs .none false false s t := by
  simp [keepCounts, succeeded, idleWith, endedAs, endedStatus, hexc]

theorem keepCounts_succeededRead : keepCounts s (succeededRead (idleWith s t)) = endedAs .none true false s t := by
  simp [keepCounts, succeededRead, idleWith, endedAs, endedStatus, hexc]

end

theorem keepCounts_exceptedWith (x : Byte) :
    keepCounts s (exceptedWith x (idleWith s t)) = { endedAs .deviceException false true s t with exc := x } := rfl

end

/-- The two ends in which TXN_x reads no more of the frame than its check (42_decoder.md R142). -/
theorem eq_endedAs_of_ladder {s t rest : State} {efc : Byte} {k : ErrKind} (hexc : s.exc = 0)
    (ht : t = keepCounts s (frameLadder efc (rxFrame (idleWith s t)) (idleWith s t) rest))
    (hladder : frameLadder efc (rxFrame (idleWith s t)) (idleWith s t) rest = failedWith k (idleWith s t)) :
    t = endedAs k false false s t := by
  rw [hladder, keepCounts_failedWith hexc] at ht
  exact ht

/-- Settles O44: a frame of EXPLEN bytes has 6 or more, so the function code decides after the CRC. -/
theorem foreignFunctionCodeIsProtocolError : Obligations.ForeignFunctionCodeIsProtocolError := by
  unfold Obligations.ForeignFunctionCodeIsProtocolError
  intro s bs late rest hinv hrecv hop he hc hcrc hnormal hne
  have hinv' : StateInv { s with events := rest } := hinv.withEvents rest
  have hbusy : s.phase ≠ .idle := by rw [hrecv]; decide
  obtain ⟨hmin, -⟩ := hinv.explen_bounds hbusy
  have hlong : 4 ≤ (rxFrame s ++ bs).length := by
    rw [completes, if_neg (by omega)] at hc
    omega
  obtain ⟨hframe, hend, -, -, hidle⟩ := receive_completed hinv' hrecv hc late
  obtain ⟨next, ht⟩ := eq_ladder_of_txn hinv' hbusy hop hend
  refine ⟨_, step_rx he, hframe, eq_endedAs_of_ladder (hinv'.runningFlags hbusy).exc ht ?_⟩
  rw [hidle]
  exact frameLadder_foreign hlong hcrc hnormal hne

/-! ### whole frames that TXN_x does not accept, and XFER -/

section
variable (sl : Byte) (c : Word)

@[simp] theorem byteAt_one_readBits (d : List Byte) : byteAt (frameOf (readBitsBody sl d) c) 1 = 0x01#8 := rfl

@[simp] theorem byteAt_one_readRegister (w : Word) : byteAt (frameOf (readRegisterBody sl w) c) 1 = 0x03#8 := rfl

@[simp] theorem byteAt_one_six (fc : Byte) (a w : Word) : byteAt (frameOf (sixBody sl fc a w) c) 1 = fc := rfl

@[simp] theorem byteAt_one_exception (f : BitVec 7) (x : Byte) :
    byteAt (frameOf (exceptionBody sl f x) c) 1 = 0x80#8 ||| f.setWidth 8 := rfl

end

theorem length_frameOf (body : List Byte) (c : Word) : (frameOf body c).length = body.length + 2 := by
  simp [frameOf, crcField]

theorem exceptionCode_toNat (f : BitVec 7) : (0x80#8 ||| f.setWidth 8).toNat = 0x80 + f.toNat := by
  revert f
  decide

/-- An exception response completes wherever no byte has been received. -/
theorem completes_exceptionFrame {s : State} (hempty : s.rxLen = 0) (sl : Byte) (f : BitVec 7) (x : Byte) (c : Word) :
    completes s (frameOf (exceptionBody sl f x) c) := by
  refine completes_exception hempty ?_ rfl
  rw [byteAt_one_exception, exceptionCode_toNat]
  omega

/-- Settles O52: each row's frame has 5 bytes or more and completes, so the CRC decides. -/
theorem badCrcEndsTheExchange : Obligations.BadCrcEndsTheExchange := by
  unfold Obligations.BadCrcEndsTheExchange
  intro s i body sl d f x a w c hinv hrecv hempty hop hcrc hi
  have hbusy : s.phase ≠ .idle := by rw [hrecv]; decide
  have hrow : encode i = .response (frameOf body c) ∧ completes s (frameOf body c) ∧ 2 ≤ body.length := by
    obtain ⟨rfl, rfl, hlen⟩ | ⟨rfl, rfl, hlen⟩ | ⟨rfl, rfl, hlen⟩ | ⟨rfl, rfl, hlen⟩ | ⟨rfl, rfl⟩ := hi
    case inr.inr.inr.inr => exact ⟨rfl, completes_exceptionFrame hempty sl f x c, by simp [exceptionBody]⟩
    all_goals
      rw [← length_frameOf _ c] at hlen
      exact ⟨rfl, completes_normal hempty (by simp) hlen, by simp [readBitsBody, readRegisterBody, sixBody]⟩
  obtain ⟨hi, hc, htwo⟩ := hrow
  obtain ⟨t, hexec, hframe, hend, hidle⟩ := exec_whole_frame hinv hrecv hempty hi hc
  obtain ⟨rest, ht⟩ := eq_ladder_of_txn hinv hbusy hop hend
  refine ⟨t, hexec, hframe, eq_endedAs_of_ladder (hinv.runningFlags hbusy).exc ht ?_⟩
  rw [hidle]
  refine frameLadder_badCrc (by rw [length_frameOf]; omega) ?_
  rwa [Bool.eq_false_iff, Ne, crcOk_frameOf]

/-- Settles O53: the same rows, which XFER does not decode. -/
theorem xferKeepsTheResponse : Obligations.XferKeepsTheResponse := by
  unfold Obligations.XferKeepsTheResponse
  intro s i bs sl d f x a w c hinv hrecv hempty hop hi
  have hrow : encode i = .response bs ∧ completes s bs := by
    obtain ⟨rfl, rfl, hlen⟩ | ⟨rfl, rfl, hlen⟩ | ⟨rfl, rfl, hlen⟩ | ⟨rfl, rfl, hlen⟩ | ⟨rfl, rfl⟩ := hi
    case inr.inr.inr.inr => exact ⟨rfl, completes_exceptionFrame hempty sl f x c⟩
    all_goals exact ⟨rfl, completes_normal hempty (by simp) hlen⟩
  obtain ⟨hi, hc⟩ := hrow
  obtain ⟨t, hexec, hframe, hend, -⟩ := exec_whole_frame hinv hrecv hempty hi hc
  exact ⟨t, hexec, hframe, (completedAs_iff_of_xfer hop).1 hend⟩

/-- An end that may have written EXC, by its fields. -/
theorem endedAs_fields {s t : State} {k : ErrKind} {rvalid excv : Bool} {x : Byte}
    (ht : t = { endedAs k rvalid excv s t with exc := x }) :
    t = { s with rxLen := t.rxLen, rxbuf := t.rxbuf, phase := .idle, exc := t.exc, status := t.status } ∧
      t.exc = x ∧ t.status = endedStatus k rvalid excv s.status.attempts s.status.ign := by
  have hexc : t.exc = x := congrArg State.exc ht
  have hstatus : t.status = endedStatus k rvalid excv s.status.attempts s.status.ign := congrArg State.status ht
  refine ⟨?_, hexc, hstatus⟩
  rw [hexc, hstatus]
  exact ht

/-- Settles O51: XFER does not decode; under TXN_x the function code, 0x80 taken off, is the request's or another. -/
theorem exceptionResponseEndsTheExchange : Obligations.ExceptionResponseEndsTheExchange := by
  unfold Obligations.ExceptionResponseEndsTheExchange
  intro s sl f x c hinv hrecv hempty hcrc
  have hbusy : s.phase ≠ .idle := by rw [hrecv]; decide
  have hok := (crcOk_frameOf (exceptionBody sl f x) c).2 hcrc
  have hfc : (byteAt (frameOf (exceptionBody sl f x) c) 1).toNat = 0x80 + f.toNat := exceptionCode_toNat f
  have hmatch : (byteAt (frameOf (exceptionBody sl f x) c) 1).toNat - 0x80 = s.txbuf[1].toNat ↔
      f.setWidth 8 = s.txbuf[1] := by
    rw [hfc, Nat.add_sub_cancel_left, ← BitVec.toNat_inj, BitVec.toNat_setWidth_of_le (by decide)]
  obtain ⟨t, hexec, hframe, hend, hidle⟩ :=
    exec_whole_frame (i := .rspException sl f x c) hinv hrecv hempty rfl (completes_exceptionFrame hempty sl f x c)
  refine ⟨t, hexec, hframe, ?_⟩
  by_cases hop : s.op = .xfer
  · obtain ⟨hkeep, hexc, hstatus⟩ := endedAs_fields (x := s.exc) ((completedAs_iff_of_xfer hop).1 hend)
    exact ⟨hkeep, fun _ => ⟨hexc, hstatus⟩, fun h => absurd hop h, fun h => absurd hop h⟩
  · obtain ⟨rest, ht⟩ := eq_ladder_of_txn hinv hbusy hop hend
    rw [hidle] at ht
    by_cases hmine : f.setWidth 8 = s.txbuf[1]
    · rw [frameLadder_exception rfl hok (by omega) (hmatch.2 hmine), keepCounts_exceptedWith] at ht
      obtain ⟨hkeep, hexc, hstatus⟩ := endedAs_fields ht
      exact ⟨hkeep, fun h => absurd h hop, fun _ _ => ⟨hexc, hstatus⟩, fun _ h => absurd hmine h⟩
    · rw [frameLadder_foreignException (by simp [length_frameOf, exceptionBody]) hok (by omega) (mt hmatch.1 hmine),
        keepCounts_failedWith (hinv.runningFlags hbusy).exc] at ht
      obtain ⟨hkeep, hexc, hstatus⟩ := endedAs_fields (x := s.exc) ht
      exact ⟨hkeep, fun h => absurd h hop, fun _ h => absurd h hmine, fun _ _ => ⟨hexc, hstatus⟩⟩

/-! ### whole frames that TXN_x decodes -/

section
variable {u : State} {bs : List Byte} (h : rxFrame u = bs)
include h

theorem rxLen_of_frame : u.rxLen.toNat = bs.length := by rw [← h, rxFrame_length]

theorem rxAt_of_frame {j : Nat} (hj : j < bs.length) : rxAt u j = byteAt bs j := by
  subst h
  rw [rxFrame_length] at hj
  exact (rxFrame_getD u hj).symm

end

/-- The data bytes of a read-bits response. -/
theorem byteAt_readBits (sl : Byte) (d : List Byte) (c : Word) {j : Nat} (hj : j < d.length) :
    byteAt (frameOf (readBitsBody sl d) c) (3 + j) = d.getD j 0 := by
  simp [byteAt, frameOf, readBitsBody, List.getD_eq_getElem?_getD, Nat.add_comm 3 j, List.getElem?_append_left hj]

/-- Settles O48: the frame passes the check and its two lengths, and its data bytes are the coils. -/
theorem txnRbReceivesCoils : Obligations.TxnRbReceivesCoils := by
  unfold Obligations.TxnRbReceivesCoils
  intro s sl d c hinv hwait hbytes hcrc
  obtain ⟨hrecv, hempty, hop, hexplen⟩ := hwait
  have hbusy : s.phase ≠ .idle := by rw [hrecv]; decide
  have hlength : (frameOf (readBitsBody sl d) c).length = 5 + d.length := by
    simp [length_frameOf, readBitsBody]
    omega
  have hcount : countOk s.count = true := by
    have hargs := hinv.busy_args hbusy
    rw [requestFitsArgs, hop] at hargs
    obtain ⟨hcount, -⟩ := hargs
    exact hcount
  obtain ⟨hleast, hmost⟩ := (countOk_iff _).1 hcount
  obtain ⟨t, hexec, hframe, hend, hidle⟩ := exec_whole_frame (i := .rspReadBits sl d c) hinv hrecv hempty rfl
    (completes_normal hempty (by simp) (hexplen.trans hlength.symm))
  obtain ⟨-, hdec⟩ := decRbUnpacksOrFails (idleWith s t) rfl
  obtain ⟨good, hgood, hdec⟩ := hdec hleast hmost
  have hrxLen : (idleWith s t).rxLen.toNat = 5 + ((idleWith s t).count.toNat + 7) / 8 := by
    rw [rxLen_of_frame hidle, hlength, hbytes, idleWith_count]
  have hbyteCount : (rxAt (idleWith s t) 2).toNat = ((idleWith s t).count.toNat + 7) / 8 := by
    have htwo : byteAt (frameOf (readBitsBody sl d) c) 2 = BitVec.ofNat 8 d.length := rfl
    rw [rxAt_of_frame hidle (by omega), htwo, BitVec.toNat_ofNat, hbytes, idleWith_count]
    exact Nat.mod_eq_of_lt (by omega)
  rw [hidle, frameLadder_passes (by omega) ((crcOk_frameOf _ _).2 hcrc) (byteAt_one_readBits sl c d) (by decide),
    if_neg (not_not.2 hbyteCount),
    if_neg (not_not.2 hrxLen)] at hdec
  have ht := eq_keepCounts (congrArg decoderOf hop) hend hdec
  have hcoil : t.coil = good := congrArg State.coil ht
  refine ⟨t, hexec, hframe, fun i hi => ?_, ?_⟩
  · rw [hcoil, hgood hrxLen i hi, idleWith_count]
    by_cases hlt : i < s.count.toNat
    · rw [if_pos hlt, if_pos hlt, rxAt_of_frame hidle (by omega), byteAt_readBits _ _ _ (by omega)]
    · rw [if_neg hlt, if_neg hlt]
  · have hread := keepCounts_succeededRead (t := t) (hinv.runningFlags hbusy).exc
    rw [hcoil]
    exact ht.trans (congrArg (setCoil good) hread)

/-- Settles O49: the frame passes the check and its two lengths, and bytes 3 and 4 are the word. -/
theorem txnRrReceivesTheWord : Obligations.TxnRrReceivesTheWord := by
  unfold Obligations.TxnRrReceivesTheWord
  intro s sl w c hinv hwait hcrc
  obtain ⟨hrecv, hempty, hop, hexplen⟩ := hwait
  have hbusy : s.phase ≠ .idle := by rw [hrecv]; decide
  obtain ⟨t, hexec, hframe, hend, hidle⟩ := exec_whole_frame (i := .rspReadRegister sl w c) hinv hrecv hempty rfl
    (completes_normal hempty (by simp) hexplen)
  have hseven : (frameOf (readRegisterBody sl w) c).length = 7 := rfl
  have hrxLen : (idleWith s t).rxLen.toNat = 7 := (rxLen_of_frame hidle).trans hseven
  have htwo : byteAt (frameOf (readRegisterBody sl w) c) 2 = 0x02#8 := rfl
  have hword : cat16 (byteAt (frameOf (readRegisterBody sl w) c) 3) (byteAt (frameOf (readRegisterBody sl w) c) 4) =
      w := cat16_hi8_lo8 w
  have hdec := decRrExtractsTheWord (idleWith s t) rfl
  rw [hidle, frameLadder_passes (by omega) ((crcOk_frameOf _ _).2 hcrc) (byteAt_one_readRegister sl c w) (by decide),
    rxAt_of_frame hidle (by omega), rxAt_of_frame hidle (by omega), rxAt_of_frame hidle (by omega), hword,
    if_neg (not_not.2 htwo), if_neg (not_not.2 hrxLen)] at hdec
  have ht := eq_keepCounts (congrArg decoderOf hop) hend hdec
  have hread := keepCounts_succeededRead (t := t) (hinv.runningFlags hbusy).exc
  exact ⟨t, hexec, hframe, ht.trans (congrArg (setResult w) hread)⟩

/-- `write_ack` (R149) on an echo: the Address and the value decide. -/
theorem writeAck_echo {u : State} {sl fc : Byte} {a e c : Word} (hframe : rxFrame u = frameOf (sixBody sl fc a e) c)
    (ev : Word) :
    (if u.rxLen.toNat ≠ 8 then failedWith .protocolError u
      else if cat16 (rxAt u 2) (rxAt u 3) ≠ u.addr then failedWith .unexpectedEcho u
      else if cat16 (rxAt u 4) (rxAt u 5) ≠ ev then failedWith .unexpectedEcho u
      else succeeded u) = if a = u.addr ∧ e = ev then succeeded u else failedWith .unexpectedEcho u := by
  have height : (frameOf (sixBody sl fc a e) c).length = 8 := rfl
  have hrxLen : u.rxLen.toNat = 8 := (rxLen_of_frame hframe).trans height
  have haddr : cat16 (byteAt (frameOf (sixBody sl fc a e) c) 2) (byteAt (frameOf (sixBody sl fc a e) c) 3) = a :=
    cat16_hi8_lo8 a
  have hvalue : cat16 (byteAt (frameOf (sixBody sl fc a e) c) 4) (byteAt (frameOf (sixBody sl fc a e) c) 5) = e :=
    cat16_hi8_lo8 e
  rw [if_neg (not_not.2 hrxLen), rxAt_of_frame hframe (by omega), rxAt_of_frame hframe (by omega),
    rxAt_of_frame hframe (by omega), rxAt_of_frame hframe (by omega), haddr, hvalue]
  by_cases ha : a = u.addr
  · by_cases he : e = ev
    · simp [ha, he]
    · simp [ha, he]
  · simp [ha]

theorem keepCounts_echo {s t : State} (hexc : s.exc = 0) (p : Prop) [Decidable p] :
    keepCounts s (if p then succeeded (idleWith s t) else failedWith .unexpectedEcho (idleWith s t)) =
      endedAs (if p then .none else .unexpectedEcho) false false s t := by
  by_cases hp : p
  · rw [if_pos hp, if_pos hp, keepCounts_succeeded hexc]
  · rw [if_neg hp, if_neg hp, keepCounts_failedWith hexc]

/-- Settles O50: `write_ack` for the two function codes. -/
theorem txnWriteChecksTheEcho : Obligations.TxnWriteChecksTheEcho := by
  unfold Obligations.TxnWriteChecksTheEcho
  intro s sl a e c hinv
  refine ⟨fun hwait hcrc => ?_, fun hwait hcrc => ?_⟩
  · obtain ⟨hrecv, hempty, hop, hexplen⟩ := hwait
    have hbusy : s.phase ≠ .idle := by rw [hrecv]; decide
    obtain ⟨t, hexec, hframe, hend, hidle⟩ := exec_whole_frame (i := .rspWriteBitEcho sl a e c) hinv hrecv hempty rfl
      (completes_normal hempty (by simp) hexplen)
    have hdec := decWbChecksTheEcho (idleWith s t) rfl
    rw [writeAck_echo hidle, hidle, frameLadder_passes (by simp [length_frameOf, sixBody]) ((crcOk_frameOf _ _).2 hcrc)
      (byteAt_one_six sl c _ a e) (by decide)] at hdec
    have ht := eq_keepCounts (congrArg decoderOf hop) hend hdec
    exact ⟨t, hexec, hframe, ht.trans (keepCounts_echo (hinv.runningFlags hbusy).exc _)⟩
  · obtain ⟨hrecv, hempty, hop, hexplen⟩ := hwait
    have hbusy : s.phase ≠ .idle := by rw [hrecv]; decide
    obtain ⟨t, hexec, hframe, hend, hidle⟩ := exec_whole_frame (i := .rspWriteRegisterEcho sl a e c) hinv hrecv hempty
      rfl (completes_normal hempty (by simp) hexplen)
    have hdec := decWrChecksTheEcho (idleWith s t) rfl
    rw [writeAck_echo hidle, hidle, frameLadder_passes (by simp [length_frameOf, sixBody]) ((crcOk_frameOf _ _).2 hcrc)
      (byteAt_one_six sl c _ a e) (by decide)] at hdec
    have ht := eq_keepCounts (congrArg decoderOf hop) hend hdec
    exact ⟨t, hexec, hframe, ht.trans (keepCounts_echo (hinv.runningFlags hbusy).exc _)⟩

end Sys2Proof.Machine
